-- ==== Sys2Proof/Word.lean ====
section
/-!
DEFINITION. The word types of RCS and the small closed sets of names its operands range over
(10_state.md R40, R45, R46): arena slots, operation classes, timer-compare channels.
-/

namespace Sys2Proof

/-- One byte of a frame or of a ring entry. -/
abbrev Byte := BitVec 8

/-- A 16-bit immediate: channel, PAN ID, short address, power value, callback id. -/
abbrev Half := BitVec 16

/-- A register, a command word or an event word (00_scope.md R6: registers are 32 bits). -/
abbrev Word := BitVec 32

/-- A 64-bit extended address or key source. -/
abbrev DWord := BitVec 64

/-- The ten slots of the descriptor arena, in slot order (10_state.md R40). -/
inductive Slot where
  | setup | fsRx | rx | fsTx | cca | tx | ack | noop | tcA | tcB
  deriving DecidableEq, Repr

/-- The operation classes of the backoff timers: RX = 0, TX = 1, NOOP = 2 (10_state.md R45). -/
inductive OpClass where
  | rx | tx | noop
  deriving DecidableEq, Repr

/-- The two timer-compare channels: A = 0, B = 1 (10_state.md R46). -/
inductive TcChan where
  | a | b
  deriving DecidableEq, Repr

end Sys2Proof
end

