-- ==== Sys2Proof/Syntax.lean ====
section
/-!
DEFINITION. The instructions of RCS (00_scope.md R2): the host's commands, the radio core's event
words and the assembler's pseudo-instructions, one constructor per row of spec/opcode_table.json.
The internal agent steps have no encoding (30_encoding.md R150) and are no instructions: they are
moves of Machine/State.lean.

A command's operands are the fields of its CMD word; ARG0 and ARG1 are registers it reads (R152).
An event word is ONE instruction: the lowest event bit it sets names the constructor, `handle` is bits
7:0, and `later` holds the higher event bits of the same word, bit 0 the next one up (R159 to R161).
-/

namespace Sys2Proof

inductive Instr where
  /-- INIT (40_scheduler.md R230). -/
  | init
  /-- SUBMIT_RX, IMM the channel (R233). -/
  | submitRx (channel : Half)
  /-- SUBMIT_TX, IMM the channel, FLG bits 0 and 1 (R240). -/
  | submitTx (channel : Half) (ackReq cca : Bool)
  /-- SUBMIT_NOOP (R245). -/
  | submitNoop
  /-- STOP_ALL, FLG bit 0 (R248). -/
  | stopAll (graceful : Bool)
  /-- UPDATE_TX_POWER, IMM the power value (R250). -/
  | updateTxPower (value : Half)
  /-- SETUP_TC, SEL bit 0 the channel, IMM the callback id (R253). -/
  | setupTc (chan : TcChan) (callback : Half)
  /-- DC_RECORD (42_duty_cycle.md R393). -/
  | dcRecord
  /-- DC_CHECK (R394). -/
  | dcCheck
  /-- DC_ADVANCE (R396). -/
  | dcAdvance
  /-- SET_ROLE, FLG bits 0 and 1 (R397). -/
  | setRole (panCoord beaconEn : Bool)
  /-- BACKOFF_REQ, SEL the class; SEL 3..15 is a reserved operand value (43_backoff_timers.md R431). -/
  | backoffReq (sel : BitVec 4)
  /-- SET_PAN, IMM the PAN ID (44_filter_config.md R470). -/
  | setPan (pan : Half)
  /-- SET_SHORT, IMM the short address (R471). -/
  | setShort (addr : Half)
  /-- SET_EXT (R472). -/
  | setExt
  /-- SET_FILTER_MODE, IMM[7:0] the allowlist, FLG bits 0 to 2 (R473). -/
  | setFilterMode (allow : Byte) (promisc enhAck ackFp : Bool)
  /-- An event word whose lowest event bit is 8, PREAMBLE (41_rx_frame_fsm.md R305). -/
  | evtPreamble (handle : Byte) (later : BitVec 7)
  /-- An event word whose lowest event bit is 9, FRAME_OK (R345). -/
  | evtFrameOk (handle : Byte) (later : BitVec 6)
  /-- An event word whose lowest event bit is 10, BAD_CRC (R360). -/
  | evtBadCrc (handle : Byte) (later : BitVec 5)
  /-- An event word whose lowest event bit is 11, BUF_FULL (R361). -/
  | evtBufFull (handle : Byte) (later : BitVec 4)
  /-- An event word whose lowest event bit is 12, CMD_DONE (40_scheduler.md R261). -/
  | evtCmdDone (handle : Byte) (later : BitVec 3)
  /-- An event word whose lowest event bit is 13, CMD_STOPPED (R263). -/
  | evtCmdStopped (handle : Byte) (later : BitVec 2)
  /-- An event word whose lowest event bit is 14, CMD_PREEMPTED (R264). -/
  | evtCmdPreempted (handle : Byte) (later : BitVec 1)
  /-- An event word whose only event bit is 15, TC_FIRED (43_backoff_timers.md R445). -/
  | evtTcFired (handle : Byte)
  /-- BACKOFF_CANCEL c: BACKOFF_REQ c, 0 (30_encoding.md R201). -/
  | backoffCancel (sel : BitVec 4)
  /-- STOP_NOW: STOP_ALL (R201). -/
  | stopNow
  /-- STOP_GRACEFUL: STOP_ALL GRACEFUL (R201). -/
  | stopGraceful
  /-- TC_REARM ch, cb, delta: SETUP_TC ch, cb, delta (R201). -/
  | tcRearm (chan : TcChan) (callback : Half) (delta : Word)
  /-- SET_ADDR p, a, e: SET_PAN p; SET_SHORT a; SET_EXT e (R201). -/
  | setAddr (pan addr : Half) (ext : DWord)
  /-- PROMISC_ON: SET_FILTER_MODE 0xFF, PROMISC (R201). -/
  | promiscOn
  deriving DecidableEq, Repr

end Sys2Proof
end

