-- ==== Sys2Proof/WellFormed.lean ====
section
/-!
DEFINITION. Which instructions hold no reserved operand value (30_encoding.md R204). The field widths
of `Instr` already exclude reserved opcodes and reserved-zero bits, so two checks remain: an event's
handle names an arena slot, and a backoff class is one of the three.
An instruction that is not well formed still decodes and still has the effect the spec gives it
(UNEXPECTED_EVENT counted, INVALID_ARG returned).
-/

namespace Sys2Proof

/-- A handle of an event word names one of the ten arena slots (R161: h ≤ 9). -/
def handleOk (h : Byte) : Bool := decide (h.toNat ≤ 9)

/-- A SEL field names one of the three operation classes (R154: 3..15 INVALID_ARG). -/
def classOk (sel : BitVec 4) : Bool := decide (sel.toNat ≤ 2)

/-- No operand of the instruction is a reserved value (R204). -/
def Instr.wellFormed : Instr → Bool
  | .init => true
  | .submitRx _ => true
  | .submitTx _ _ _ => true
  | .submitNoop => true
  | .stopAll _ => true
  | .updateTxPower _ => true
  | .setupTc _ _ => true
  | .dcRecord => true
  | .dcCheck => true
  | .dcAdvance => true
  | .setRole _ _ => true
  | .backoffReq sel => classOk sel
  | .setPan _ => true
  | .setShort _ => true
  | .setExt => true
  | .setFilterMode _ _ _ _ => true
  | .evtPreamble h _ => handleOk h
  | .evtFrameOk h _ => handleOk h
  | .evtBadCrc h _ => handleOk h
  | .evtBufFull h _ => handleOk h
  | .evtCmdDone h _ => handleOk h
  | .evtCmdStopped h _ => handleOk h
  | .evtCmdPreempted h _ => handleOk h
  | .evtTcFired h => handleOk h
  | .backoffCancel sel => classOk sel
  | .stopNow => true
  | .stopGraceful => true
  | .tcRearm _ _ _ => true
  | .setAddr _ _ _ => true
  | .promiscOn => true

end Sys2Proof
end

