-- ==== Sys2Proof/Decode.lean ====
section
/-!
DEFINITION. Decoding of command and event words, total on all 32-bit words and rejecting by name
(30_encoding.md R150 to R161), and after it the encoder, written from the same tables.
The command port and the event port are two ports (R150), so `decodeCmd` and `decodeEvt` are two
decoders; `decodeTableWord` joins them for the opcode table (log entry 13).
-/

namespace Sys2Proof

/-- Why a word is no instruction. -/
inductive DecodeError where
  /-- A CMD word whose OPC is in no row of R154. -/
  | reservedOpcode (opc : Byte)
  /-- A CMD word of a defined OPC with a reserved-zero bit set (R155). -/
  | reservedBits (opc : Byte)
  /-- An EVT word with a bit of 31:16 set (R161). -/
  | eventReservedBits
  /-- An EVT word with no event bit (R161). -/
  | noEventBit
  deriving DecidableEq, Repr

/-- The two ports a word may be delivered to (R150). -/
inductive Port where
  | cmd | evt
  deriving DecidableEq, Repr

/-! ## Fields -/

/-- OPC, bits 7:0 of a CMD word (R151). -/
def opcField (w : Word) : Byte := w.extractLsb' 0 8

/-- SEL, bits 11:8 (R151). -/
def selField (w : Word) : BitVec 4 := w.extractLsb' 8 4

/-- FLG, bits 15:12 (R151). -/
def flgField (w : Word) : BitVec 4 := w.extractLsb' 12 4

/-- IMM, bits 31:16 (R151). -/
def immField (w : Word) : Half := w.extractLsb' 16 16

/-- HANDLE, bits 7:0 of an EVT word (R159). -/
def handleField (w : Word) : Byte := w.extractLsb' 0 8

/-- The event bits 15:8 of an EVT word (R159). -/
def eventField (w : Word) : Byte := w.extractLsb' 8 8

/-- Bits 31:16 of an EVT word, reserved (R159). -/
def evtReservedField (w : Word) : Half := w.extractLsb' 16 16

/-- SEL bit 0 names the timer-compare channel: 0 A, 1 B (R154). -/
def chanOfBit (b : Bool) : TcChan := if b then .b else .a

/-- The SEL bit of a timer-compare channel (R154). -/
def chanBit : TcChan → Bool
  | .a => false
  | .b => true

/-! ## Commands -/

/-- One row of the field table of R154: a word selects it when (w AND mask) = pattern. -/
structure CmdRow where
  mnemonic : String
  opc : Byte
  pattern : Word
  mask : Word
  build : Word → Instr

/-- The field table of R154, in its order. -/
def cmdTable : List CmdRow :=
  [ ⟨"INIT", 0x01, 0x00000001, 0xFFFFFFFF, fun _ => .init⟩,
    ⟨"SUBMIT_RX", 0x10, 0x00000010, 0x0000FFFF, fun w => .submitRx (immField w)⟩,
    ⟨"SUBMIT_TX", 0x11, 0x00000011, 0x0000CFFF, fun w =>
      .submitTx (immField w) ((flgField w).getLsbD 0) ((flgField w).getLsbD 1)⟩,
    ⟨"SUBMIT_NOOP", 0x12, 0x00000012, 0xFFFFFFFF, fun _ => .submitNoop⟩,
    ⟨"STOP_ALL", 0x13, 0x00000013, 0xFFFFEFFF, fun w => .stopAll ((flgField w).getLsbD 0)⟩,
    ⟨"UPDATE_TX_POWER", 0x14, 0x00000014, 0x0000FFFF, fun w => .updateTxPower (immField w)⟩,
    ⟨"SETUP_TC", 0x15, 0x00000015, 0x0000FEFF, fun w =>
      .setupTc (chanOfBit ((selField w).getLsbD 0)) (immField w)⟩ ] ++
  [ ⟨"DC_RECORD", 0x20, 0x00000020, 0xFFFFFFFF, fun _ => .dcRecord⟩,
    ⟨"DC_CHECK", 0x21, 0x00000021, 0xFFFFFFFF, fun _ => .dcCheck⟩,
    ⟨"DC_ADVANCE", 0x22, 0x00000022, 0xFFFFFFFF, fun _ => .dcAdvance⟩,
    ⟨"SET_ROLE", 0x23, 0x00000023, 0xFFFFCFFF, fun w =>
      .setRole ((flgField w).getLsbD 0) ((flgField w).getLsbD 1)⟩,
    ⟨"BACKOFF_REQ", 0x30, 0x00000030, 0xFFFFF0FF, fun w => .backoffReq (selField w)⟩,
    ⟨"SET_PAN", 0x40, 0x00000040, 0x0000FFFF, fun w => .setPan (immField w)⟩,
    ⟨"SET_SHORT", 0x41, 0x00000041, 0x0000FFFF, fun w => .setShort (immField w)⟩,
    ⟨"SET_EXT", 0x42, 0x00000042, 0xFFFFFFFF, fun _ => .setExt⟩,
    ⟨"SET_FILTER_MODE", 0x43, 0x00000043, 0xFF008FFF, fun w =>
      .setFilterMode ((immField w).extractLsb' 0 8) ((flgField w).getLsbD 0)
        ((flgField w).getLsbD 1) ((flgField w).getLsbD 2)⟩ ]

/-- The row whose OPC the word holds; every OPC of no row is reserved (R153). -/
def cmdRow? (opc : Byte) : Option CmdRow := cmdTable.find? (fun r => r.opc == opc)

/-- Decoding of a CMD word (R155): the OPC byte selects the row, and the word must match the row's
pattern under its mask. -/
def decodeCmd (w : Word) : Except DecodeError Instr :=
  match cmdRow? (opcField w) with
  | none => .error (.reservedOpcode (opcField w))
  | some r => if w &&& r.mask = r.pattern then .ok (r.build w) else .error (.reservedBits (opcField w))

/-! ## Events -/

/-- The event word's instruction, from its handle and its event bits (bit 0 is event bit 8): the lowest
set bit names it. `none` when no bit is set. -/
def eventInstr (h bits : Byte) : Option Instr :=
  if bits.getLsbD 0 then some (.evtPreamble h (bits.extractLsb' 1 7))
  else if bits.getLsbD 1 then some (.evtFrameOk h (bits.extractLsb' 2 6))
  else if bits.getLsbD 2 then some (.evtBadCrc h (bits.extractLsb' 3 5))
  else if bits.getLsbD 3 then some (.evtBufFull h (bits.extractLsb' 4 4))
  else if bits.getLsbD 4 then some (.evtCmdDone h (bits.extractLsb' 5 3))
  else if bits.getLsbD 5 then some (.evtCmdStopped h (bits.extractLsb' 6 2))
  else if bits.getLsbD 6 then some (.evtCmdPreempted h (bits.extractLsb' 7 1))
  else if bits.getLsbD 7 then some (.evtTcFired h)
  else none

/-- Decoding of an EVT word (R161). A handle above 9 decodes: its delivery counts UNEXPECTED_EVENT. -/
def decodeEvt (w : Word) : Except DecodeError Instr :=
  if evtReservedField w ≠ 0 then .error .eventReservedBits
  else match eventInstr (handleField w) (eventField w) with
    | some i => .ok i
    | none => .error .noEventBit

/-- Decoding at a port. -/
def decode : Port → Word → Except DecodeError Instr
  | .cmd, w => decodeCmd w
  | .evt, w => decodeEvt w

/-- The port a word of the opcode table belongs to: the event port if it is no command but an event
word, the command port otherwise (log entry 13). -/
def portOf (w : Word) : Port :=
  match decodeCmd w, decodeEvt w with
  | .ok _, _ => .cmd
  | .error _, .ok _ => .evt
  | .error _, .error _ => .cmd

/-- The word the host of this package asks about: `nbits` low bits of `w`, every higher bit 0. -/
def tableWord (nbits w : Nat) : Word := BitVec.ofNat 32 (w % 2 ^ nbits)

/-- What the decoder reads from a word of the opcode table. A word of more than 32 bits is none. -/
def decodeTableWord (nbits w : Nat) : Option Instr :=
  if w % 2 ^ nbits < 2 ^ 32 then
    match decode (portOf (tableWord nbits w)) (tableWord nbits w) with
    | .ok i => some i
    | .error _ => none
  else none

/-! ## The encoder -/

/-- A CMD word from its fields (R151). -/
def cmdWord (opc : Byte) (sel flg : BitVec 4) (imm : Half) : Word := imm ++ flg ++ sel ++ opc

/-- An EVT word from its handle and event bits (R159). -/
def evtWord (h bits : Byte) : Word := (0 : Half) ++ bits ++ h

/-- The FLG field with the given bits (R154). -/
def flgBits (b0 b1 b2 : Bool) : BitVec 4 :=
  (0 : BitVec 1) ++ BitVec.ofBool b2 ++ BitVec.ofBool b1 ++ BitVec.ofBool b0

/-- The event bits of an event instruction, bit 0 the event bit 8 (R160). -/
def Instr.eventBits : Instr → Byte
  | .evtPreamble _ l => l ++ (1 : BitVec 1)
  | .evtFrameOk _ l => l ++ (2 : BitVec 2)
  | .evtBadCrc _ l => l ++ (4 : BitVec 3)
  | .evtBufFull _ l => l ++ (8 : BitVec 4)
  | .evtCmdDone _ l => l ++ (16 : BitVec 5)
  | .evtCmdStopped _ l => l ++ (32 : BitVec 6)
  | .evtCmdPreempted _ l => l ++ (64 : BitVec 7)
  | .evtTcFired _ => 0x80
  | _ => 0

/-- The port an instruction's words are delivered to. -/
def Instr.port : Instr → Port
  | .evtPreamble _ _ => .evt
  | .evtFrameOk _ _ => .evt
  | .evtBadCrc _ _ => .evt
  | .evtBufFull _ _ => .evt
  | .evtCmdDone _ _ => .evt
  | .evtCmdStopped _ _ => .evt
  | .evtCmdPreempted _ _ => .evt
  | .evtTcFired _ => .evt
  | _ => .cmd

/-- The core instructions a line of assembler text stands for: itself, or the expansion of a
pseudo-instruction (R201). -/
def Instr.expansion : Instr → List Instr
  | .backoffCancel sel => [.backoffReq sel]
  | .stopNow => [.stopAll false]
  | .stopGraceful => [.stopAll true]
  | .tcRearm chan callback _ => [.setupTc chan callback]
  | .setAddr pan addr _ => [.setPan pan, .setShort addr, .setExt]
  | .promiscOn => [.setFilterMode 0xFF true false false]
  | i => [i]

/-- The words of an instruction, in the order they are delivered: one word, but for SET_ADDR, which is
three commands (R154, R159, R201). A pseudo-instruction's words are its expansion's. -/
def encode : Instr → List Word
  | .init => [cmdWord 0x01 0 0 0]
  | .submitRx ch => [cmdWord 0x10 0 0 ch]
  | .submitTx ch ackReq cca => [cmdWord 0x11 0 (flgBits ackReq cca false) ch]
  | .submitNoop => [cmdWord 0x12 0 0 0]
  | .stopAll g => [cmdWord 0x13 0 (flgBits g false false) 0]
  | .updateTxPower v => [cmdWord 0x14 0 0 v]
  | .setupTc ch cb => [cmdWord 0x15 ((0 : BitVec 3) ++ BitVec.ofBool (chanBit ch)) 0 cb]
  | .dcRecord => [cmdWord 0x20 0 0 0]
  | .dcCheck => [cmdWord 0x21 0 0 0]
  | .dcAdvance => [cmdWord 0x22 0 0 0]
  | .setRole p b => [cmdWord 0x23 0 (flgBits p b false) 0]
  | .backoffReq sel => [cmdWord 0x30 sel 0 0]
  | .setPan p => [cmdWord 0x40 0 0 p]
  | .setShort a => [cmdWord 0x41 0 0 a]
  | .setExt => [cmdWord 0x42 0 0 0]
  | .setFilterMode allow p e f => [cmdWord 0x43 0 (flgBits p e f) ((0 : Byte) ++ allow)]
  | .evtPreamble h l => [evtWord h (Instr.evtPreamble h l).eventBits]
  | .evtFrameOk h l => [evtWord h (Instr.evtFrameOk h l).eventBits]
  | .evtBadCrc h l => [evtWord h (Instr.evtBadCrc h l).eventBits]
  | .evtBufFull h l => [evtWord h (Instr.evtBufFull h l).eventBits]
  | .evtCmdDone h l => [evtWord h (Instr.evtCmdDone h l).eventBits]
  | .evtCmdStopped h l => [evtWord h (Instr.evtCmdStopped h l).eventBits]
  | .evtCmdPreempted h l => [evtWord h (Instr.evtCmdPreempted h l).eventBits]
  | .evtTcFired h => [evtWord h 0x80]
  | .backoffCancel sel => [cmdWord 0x30 sel 0 0]
  | .stopNow => [cmdWord 0x13 0 0 0]
  | .stopGraceful => [cmdWord 0x13 0 1 0]
  | .tcRearm ch cb _ => [cmdWord 0x15 ((0 : BitVec 3) ++ BitVec.ofBool (chanBit ch)) 0 cb]
  | .setAddr p a _ => [cmdWord 0x40 0 0 p, cmdWord 0x41 0 0 a, cmdWord 0x42 0 0 0]
  | .promiscOn => [cmdWord 0x43 0 1 0x00FF]

end Sys2Proof
end

