-- ==== Sys2Proof/Config.lean ====
section
/-!
DEFINITION. What an implementation fixes (00_scope.md R6, R7) and the free values.
`Config` is plain data; a machine's configuration is the field `State.cfg`, which no step writes, so a
statement about every state is a statement about every configuration (log entry 5).
The opaque constants have no body on purpose: nothing can be proved about a value of theirs.
-/

namespace Sys2Proof

/-- The parameters of 00_scope.md R6, but `lqiOf`, which is a function and so stands below. -/
structure Config where
  /-- CFG.maxFrameSize, the longest PHR length accepted. -/
  maxFrameSize : Nat
  /-- CFG.nChannels, the size of the PHY descriptor table. -/
  nChannels : Nat
  /-- CFG.tLimited, microseconds. -/
  tLimited : Word
  /-- CFG.tCritical, microseconds. -/
  tCritical : Word
  /-- CFG.tRegulated, microseconds. -/
  tRegulated : Word
  /-- CFG.securityEnabled. -/
  securityEnabled : Bool
  /-- CFG.minBE, read by no rule (92_eei_decisions.md D68). -/
  minBE : Byte
  /-- SUPPORTED_FRAME_VERSION, one of 0, 1, 2. -/
  frameVersion : BitVec 2
  /-- N_BUCKETS of the duty-cycle window. -/
  nBuckets : Nat
  /-- RING_N, the number of receive-ring entries. -/
  ringN : Nat
  /-- ENTRY_SIZE, the data bytes of one ring entry. -/
  entrySize : Nat
  /-- RX_BO_DELAY_US. -/
  rxBoDelay : Word
  /-- TX_BO_DELAY_US. -/
  txBoDelay : Word
  /-- NOOP_BO_DELAY_US. -/
  noopBoDelay : Word
  /-- ACK_WAIT_US, enforced by no rule (92_eei_decisions.md D24). -/
  ackWaitUs : Word
  /-- ACK_AIRTIME_US; 0 means that ACK airtime is not recorded. -/
  ackAirtime : Word
  /-- KEY_ID_MODE_VALID: bit m set when key-identifier mode m is valid. -/
  keyIdModeValid : BitVec 4
  /-- RAT_HZ, read by no rule (92_eei_decisions.md D71). -/
  ratHz : Nat
  deriving DecidableEq, Repr

/-- The premises a configuration meets (00_scope.md R6 and R7, 92_eei_decisions.md D63).
A configuration that breaks one is refused by the step, not modelled. -/
def Config.admitted (c : Config) : Bool :=
  decide
    (1 ≤ c.maxFrameSize ∧ c.maxFrameSize ≤ 2047 ∧
      1 ≤ c.nChannels ∧ c.nChannels ≤ 65536 ∧
      c.tLimited.toNat < c.tCritical.toNat ∧ c.tCritical.toNat < c.tRegulated.toNat ∧
      c.frameVersion.toNat ≤ 2 ∧
      1 ≤ c.nBuckets ∧ c.nBuckets ≤ 64 ∧
      1 ≤ c.ringN ∧ c.ringN ≤ 16 ∧
      2 + c.maxFrameSize + 5 ≤ c.entrySize ∧
      1 ≤ c.rxBoDelay.toNat ∧ 1 ≤ c.txBoDelay.toNat ∧
      1 ≤ c.noopBoDelay.toNat ∧ 1 ≤ c.ackWaitUs.toNat)

/-- CFG0 of 95_test_vectors.md section 0, the configuration of the spec's own vectors. -/
def Config.vectors : Config where
  maxFrameSize := 127
  nChannels := 16
  tLimited := 1000
  tCritical := 2000
  tRegulated := 3000
  securityEnabled := false
  minBE := 3
  frameVersion := 2
  nBuckets := 4
  ringN := 2
  entrySize := 134
  rxBoDelay := 1000
  txBoDelay := 1000
  noopBoDelay := 1000
  ackWaitUs := 1000
  ackAirtime := 0
  keyIdModeValid := 0b1110
  ratHz := 1

/-- The configuration of `State.reset`: R6's default wherever R6 gives one, and the value of CFG0
(95_test_vectors.md) for the inputs without a default (DESIGN CHOICE, unsafe: log entry 5). -/
def Config.default : Config := { Config.vectors with nBuckets := 12 }

/-- lqiOf, the link-quality value of a signal strength: an uninterpreted function
(92_eei_decisions.md D45). -/
opaque Config.lqiOf : Byte → Byte

/-- A draw of type Bool that no environment input supplies (00_scope.md R9; log entry 9). -/
opaque Config.freeBool : Nat → Bool

/-- A 32-bit draw that no environment input supplies (R9, 93_implementation_defined.md U1). -/
opaque Config.freeWord : Nat → Word

/-- A byte-sequence draw that no environment input supplies (R9: enhAckIEs). -/
opaque Config.freeBytes : Nat → List Byte

/-- A number drawn where no environment input supplies it: how many chain members ended DONE (R262). -/
opaque Config.freeNat : Nat → Nat

/-- The two status bits a host reads of a descriptor in flight (93_implementation_defined.md U3). -/
opaque Config.freeStatusBits : Nat → BitVec 2

/-- Which internal agent takes a step when no move is scheduled (00_scope.md R8: any enabled agent
may; log entry 8). -/
opaque Config.freeAgent : Nat → Nat

end Sys2Proof
end

