-- ==== Sys2Proof/Machine/State.lean ====
section
/-!
DEFINITION. The state of RCS as plain data (10_state.md), the messages it sends (30_encoding.md R190),
the moves of its agents (00_scope.md R8), its power-on state, and the reasons a step can stop.
-/

namespace Sys2Proof.Machine

/-! ## Closed sets of names -/

/-- The receive machine's states (10_state.md R47); value 7 is reserved and never reached. -/
inductive RxState where
  | idle | started | addr | secHdr | payload | trailer | halted
  deriving DecidableEq, Repr

/-- Descriptor status: IDLE 0, ACTIVE 1, DONE 2, ERROR 3 (30_encoding.md R186). -/
inductive CmdStatus where
  | idle | active | done | error
  deriving DecidableEq, Repr

/-- Descriptor trigger: IMMEDIATE 0, REL_PREV 1, ABS_TIME 2 (R186); 3 is reserved and never written. -/
inductive Trigger where
  | immediate | relPrev | absTime
  deriving DecidableEq, Repr

/-- Descriptor condition: NEVER 0, STOP_ON_TRUE 1, STOP_ON_FALSE 2 (R186); 3 is never written. -/
inductive Cond where
  | never | stopOnTrue | stopOnFalse
  deriving DecidableEq, Repr

/-- Ring-entry status: PENDING 0, ACTIVE 1, FULL 2 (20_memory.md R110); 3 is never written. -/
inductive RingStatus where
  | pending | active | full
  deriving DecidableEq, Repr

/-- Duty-cycle mode: NORMAL 0 to REGULATED 3 (10_state.md R53). -/
inductive DcMode where
  | normal | limited | critical | regulated
  deriving DecidableEq, Repr

/-- The diagnostic reasons 0 to 19, in index order (30_encoding.md R184). -/
inductive DiagReason where
  | modeSwitch | length | version | addrMode | secUnsupported | allocFail | filter | secLevelZero
  | secKeyIdMode | secLength | crcBad | bufferFull | ackUnmatched | ieZeroLen | ieMalformed | aborted
  | unexpectedEvent | ackRejected | dcOverflow | retryDropped
  deriving DecidableEq, Repr

/-- The model faults S.faults can hold (60_exceptions.md R493). -/
inductive FaultReason where
  | uninit
  deriving DecidableEq, Repr

/-- Result codes of RES (30_encoding.md R182). -/
inductive ResultCode where
  | ok | deferred | busy | busyDecode | rejected | dcBlocked | invalidArg | illegalOp | fatal
  deriving DecidableEq, Repr

/-- The kinds of terminal completion event (40_scheduler.md R260). -/
inductive EndKind where
  | done | stopped | preempted
  deriving DecidableEq, Repr

/-- A vote of PowerVote (40_scheduler.md R266). -/
inductive Vote where
  | allow | hold
  deriving DecidableEq, Repr

/-! ## Parts of the state -/

/-- One value for each arena slot. -/
structure PerSlot (α : Type) where
  setup : α
  fsRx : α
  rx : α
  fsTx : α
  cca : α
  tx : α
  ack : α
  noop : α
  tcA : α
  tcB : α
  deriving DecidableEq, Repr

/-- One value for each operation class. -/
structure PerClass (α : Type) where
  rx : α
  tx : α
  noop : α
  deriving DecidableEq, Repr

/-- One value for each timer-compare channel. -/
structure PerChan (α : Type) where
  a : α
  b : α
  deriving DecidableEq, Repr

/-- A slot of the descriptor arena (10_state.md R41). `kind` is fixed by the slot and is the function
`Slot.kind`, not a stored field; `next` is NONE (0xF) when absent. -/
structure Desc where
  status : CmdStatus
  trigger : Trigger
  startTime : Word
  next : Option Slot
  cond : Cond
  param0 : Word
  param1 : Word
  deriving DecidableEq, Repr

/-- A backoff timer (10_state.md R45). -/
structure BoTimer where
  running : Bool
  delay : Word
  deriving DecidableEq, Repr

/-- The stored operands of a rejected submission (10_state.md R45). The spec gives `channel` to RX and
TX and the last three fields to TX alone; a class without a field keeps 0 in it (log entry 24). -/
structure RetryArgs where
  valid : Bool
  channel : Half
  flg : BitVec 4
  arg0 : Word
  arg1 : Word
  deriving DecidableEq, Repr

/-- A timer-compare channel (10_state.md R46). -/
structure TcState where
  armed : Bool
  cb : Half
  deadline : Word
  deriving DecidableEq, Repr

/-- PartialRxFrame, the in-progress decode of one incoming frame (10_state.md R49). -/
structure PartialFrame where
  valid : Bool
  phrLen : BitVec 11
  fcsLen : BitVec 3
  mpduLen : BitVec 11
  fcf : Half
  seqPresent : Bool
  seq : Byte
  dstMode : BitVec 2
  srcMode : BitVec 2
  dstPanPresent : Bool
  srcPanPresent : Bool
  dstPan : Half
  srcPan : Half
  dstAddr : DWord
  srcAddr : DWord
  addrLen : BitVec 5
  mhrBase : BitVec 11
  secCtl : Byte
  frameCounter : Word
  keyIdMode : BitVec 2
  keySource : DWord
  keyIndex : Byte
  micLen : BitVec 5
  mhrLen : BitVec 11
  buf : List Byte
  payloadLen : BitVec 11
  ieLen : BitVec 11
  rssi : Byte
  lqi : Byte
  timestamp : Word
  ackArmed : Bool
  enhAckSubmitted : Bool
  deriving DecidableEq, Repr

/-- The control part of a receive-ring entry (20_memory.md R110); its data bytes are in `ringData`. -/
structure RingEntry where
  status : RingStatus
  rxCount : BitVec 12
  deriving DecidableEq, Repr

/-- The bytes of the RING address space, as (address, byte) pairs in canonical form: addresses strictly
rising, no pair equal to what an unlisted address reads as (Machine/Ops.lean: `Memory.wf`). -/
abbrev Memory := List Host.Cell

/-- The delivered frame record (30_encoding.md R194). -/
structure FrameRecord where
  handle : Byte
  fcf : Half
  type : BitVec 3
  framePending : Bool
  ackRequest : Bool
  seqPresent : Bool
  seq : Byte
  dstMode : BitVec 2
  srcMode : BitVec 2
  dstPanPresent : Bool
  dstPan : Half
  dstAddr : DWord
  srcPanPresent : Bool
  srcPan : Half
  srcAddr : DWord
  secured : Bool
  secCtl : Byte
  frameCounter : Word
  keyIdMode : BitVec 2
  keySource : DWord
  keyIndex : Byte
  micLen : BitVec 5
  mhrLen : BitVec 11
  ieLen : BitVec 11
  payloadLen : BitVec 11
  mpdu : List Byte
  rssi : Byte
  lqi : Byte
  timestamp : Word
  enhAckSubmitted : Bool
  deriving DecidableEq, Repr

/-- Outbound messages (30_encoding.md R190), to the radio core and to the upper layer. -/
inductive OutMsg where
  /-- Submit(p, head, mask, start). -/
  | submit (principal head : Slot) (mask : Byte) (start : Option Word)
  /-- FlushAll(graceful). -/
  | flushAll (graceful : Bool)
  /-- RunImmediate(FLUSH_ENTRY, k). -/
  | flushEntry (k : BitVec 4)
  /-- RunImmediate(ABORT, s). -/
  | abort (s : Slot)
  /-- SetTxPower(v). -/
  | setTxPower (v : Half)
  /-- ArmTC(ch, cb, deadline). -/
  | armTc (ch : TcChan) (cb : Half) (deadline : Word)
  /-- DisableTC(ch). -/
  | disableTc (ch : TcChan)
  /-- Deliver(f). -/
  | deliver (f : FrameRecord)
  /-- DcModeChanged(m). -/
  | dcModeChanged (m : DcMode)
  /-- AckNotReceived. -/
  | ackNotReceived
  /-- AckReceived(seq, fp). -/
  | ackReceived (seq : Byte) (framePending : Bool)
  /-- BackoffExpired(c). -/
  | backoffExpired (c : OpClass)
  /-- PowerVote(v). -/
  | powerVote (v : Vote)
  /-- TimerCallback(ch, cb). -/
  | timerCallback (ch : TcChan) (cb : Half)
  deriving DecidableEq, Repr

/-! ## The agents' moves and the environment's draws (the model's own part of the state) -/

/-- The agents that step by themselves when enabled (00_scope.md R8, 30_encoding.md R150). -/
inductive Agent where
  /-- PARSER: the stage step of the current receive state. -/
  | parser
  /-- BOTIMER(c): BO_EXPIRE(c). -/
  | boTimer (c : OpClass)
  /-- RETRY(c). -/
  | retry (c : OpClass)
  /-- ACKTIMER: ACKWAIT_EXPIRE. -/
  | ackTimer
  deriving DecidableEq, Repr

/-- One scheduled move of an agent. -/
inductive Move where
  /-- HOST writes a register: access width in bytes, byte offset in REG, value (20_memory.md R103). -/
  | regWrite (width : Nat) (offset : BitVec 12) (value : Word)
  /-- HOST reads a register. -/
  | regRead (width : Nat) (offset : BitVec 12)
  /-- RADIO delivers an event word (30_encoding.md R161). -/
  | event (word : Word)
  /-- RADIO_RX_WRITE into ring entry k (20_memory.md R113): its bytes, and whether the frame is done. -/
  | ringWrite (k : BitVec 4) (bytes : List Byte) (done : Bool)
  /-- An internal agent's step. -/
  | agent (a : Agent)
  deriving DecidableEq, Repr

/-- A draw of the statuses a terminal event leaves in a chain (40_scheduler.md R262): how many members
ended DONE, and whether the first that did not ended ERROR (else IDLE). Every list R262 allows is one
of these and no other (log entry 10). -/
structure MemberDraw where
  done : Nat
  err : Bool
  deriving DecidableEq, Repr

/-- The environment's draws (00_scope.md R9), each a list of answers still to come, first one first.
Where a list is empty the answer is a free value of Config, indexed by the counter `free`, which every
such draw advances (log entry 9). -/
structure Draws where
  ringAllocOk : List Bool
  accept : List Bool
  allocOk : List Bool
  ratNow : List Word
  ackStart : List Word
  enhAckIEs : List (List Byte)
  members : List MemberDraw
  /-- What a host reads as the status of a descriptor in flight (93_implementation_defined.md U3). -/
  statusBits : List (BitVec 2)
  /-- What a host reads of an unspecified register (U1). -/
  unspecified : List Word
  free : Nat
  deriving DecidableEq, Repr

/-! ## The state -/

/-- Everything 10_state.md gives the machine, the configuration it runs under, and the model's own
schedule, draws and bus read data. -/
structure State where
  /-- The configuration (00_scope.md R6); no step writes it. -/
  cfg : Config
  -- global status (R33)
  init : Bool
  fatal : Bool
  ringAllocated : Bool
  /-- A set: no reason twice. -/
  faults : List FaultReason
  -- command port (R34)
  arg0 : Word
  arg1 : Word
  res : Word
  -- scheduler (R35 to R39)
  cntTotal : BitVec 8
  cntRx : BitVec 8
  inflight : PerSlot Bool
  progChannel : Half
  progValid : Bool
  txPowerCur : Half
  txPowerCurValid : Bool
  txPowerPend : Half
  txPowerPendValid : Bool
  -- descriptor arena (R40, R41)
  desc : PerSlot Desc
  -- transmit and acknowledgment context (R43, R44)
  txAckReq : Bool
  txSeq : Byte
  txDur : Word
  ackQueued : Bool
  ackWait : Bool
  ackWaitSeq : Byte
  -- backoff timers and timer-compare channels (R45, R46)
  bo : PerClass BoTimer
  retryEvt : PerClass Bool
  retryArgs : PerClass RetryArgs
  tc : PerChan TcState
  -- receive machine (R47 to R50)
  rxState : RxState
  frameHandle : Byte
  curEntry : BitVec 4
  pf : PartialFrame
  ring : List RingEntry
  /-- The RING address space (20_memory.md R100). -/
  ringData : Memory
  rdIdx : BitVec 4
  /-- The ring entry the radio last wrote, which fixes its write position (20_memory.md R112, 60_exceptions.md
  R498 duty 3); none while it has written none. Only RADIO_RX_WRITE writes it (log entry 17). -/
  radioLast : Option (BitVec 4)
  -- frame filter and role (R51, R52)
  fPan : Half
  fShort : Half
  fExt : DWord
  fAllow : Byte
  fPromisc : Bool
  fEnhAck : Bool
  fAckFP : Bool
  panCoord : Bool
  beaconEn : Bool
  dcBeacon : Word
  -- duty-cycle window (R53)
  dcBucket : List Word
  dcTotal : Word
  dcCur : BitVec 6
  dcMode : DcMode
  dcRecorded : Bool
  -- diagnostics and outputs (R55, R56)
  diag : Vector (BitVec 16) 20
  /-- The output history, oldest first. -/
  out : List OutMsg
  -- the model's own
  /-- The moves still to be taken, next one first (log entry 7). -/
  sched : List Move
  draws : Draws
  /-- The value the host's last register read returned (log entry 23). -/
  busData : Word
  deriving DecidableEq, Repr

/-! ## Reset -/

/-- A descriptor at its INIT value (10_state.md R41). -/
def Desc.initial : Desc where
  status := .idle
  trigger := .immediate
  startTime := 0
  next := none
  cond := .never
  param0 := 0
  param1 := 0

/-- A partial frame with every field 0 and an empty buffer (10_state.md R49). -/
def PartialFrame.empty : PartialFrame where
  valid := false
  phrLen := 0
  fcsLen := 0
  mpduLen := 0
  fcf := 0
  seqPresent := false
  seq := 0
  dstMode := 0
  srcMode := 0
  dstPanPresent := false
  srcPanPresent := false
  dstPan := 0
  srcPan := 0
  dstAddr := 0
  srcAddr := 0
  addrLen := 0
  mhrBase := 0
  secCtl := 0
  frameCounter := 0
  keyIdMode := 0
  keySource := 0
  keyIndex := 0
  micLen := 0
  mhrLen := 0
  buf := []
  payloadLen := 0
  ieLen := 0
  rssi := 0
  lqi := 0
  timestamp := 0
  ackArmed := false
  enhAckSubmitted := false

/-- The same value for every slot. -/
def PerSlot.all {α : Type} (v : α) : PerSlot α := ⟨v, v, v, v, v, v, v, v, v, v⟩

/-- The same value for every class. -/
def PerClass.all {α : Type} (v : α) : PerClass α := ⟨v, v, v⟩

/-- The same value for both channels. -/
def PerChan.all {α : Type} (v : α) : PerChan α := ⟨v, v⟩

/-- No answer is supplied: every draw is a free value. -/
def Draws.none : Draws where
  ringAllocOk := []
  accept := []
  allocOk := []
  ratNow := []
  ackStart := []
  enhAckIEs := []
  members := []
  statusBits := []
  unspecified := []
  free := 0

/-- The power-on state of a machine with configuration `c` (10_state.md R32, 70_reset_and_hazards.md
R540): init, fatal and ringAllocated 0, no fault, no output. The spec leaves every other field
unspecified; here it holds its INIT value of R541 (DESIGN CHOICE, unsafe: log entry 1). -/
def State.powerOn (c : Config) : State where
  cfg := c
  init := false
  fatal := false
  ringAllocated := false
  faults := []
  arg0 := 0
  arg1 := 0
  res := 0
  cntTotal := 0
  cntRx := 0
  inflight := PerSlot.all false
  progChannel := 0
  progValid := false
  txPowerCur := 0
  txPowerCurValid := false
  txPowerPend := 0
  txPowerPendValid := false
  desc := PerSlot.all Desc.initial
  txAckReq := false
  txSeq := 0
  txDur := 0
  ackQueued := false
  ackWait := false
  ackWaitSeq := 0
  bo := PerClass.all ⟨false, 0⟩
  retryEvt := PerClass.all false
  retryArgs := PerClass.all ⟨false, 0, 0, 0, 0⟩
  tc := PerChan.all ⟨false, 0, 0⟩
  rxState := .idle
  frameHandle := 0
  curEntry := 0
  pf := PartialFrame.empty
  ring := List.replicate c.ringN ⟨.pending, 0⟩
  ringData := []
  rdIdx := 0
  radioLast := none
  fPan := 0xFFFF
  fShort := 0xFFFF
  fExt := 0
  fAllow := 0x0F
  fPromisc := false
  fEnhAck := false
  fAckFP := false
  panCoord := false
  beaconEn := false
  dcBeacon := 0
  dcBucket := List.replicate c.nBuckets 0
  dcTotal := 0
  dcCur := 0
  dcMode := .normal
  dcRecorded := false
  diag := Vector.replicate 20 0
  out := []
  sched := []
  draws := Draws.none
  busData := 0

/-- The machine right after reset, which for RCS is power-on (R540: there is no other reset). -/
def State.reset : State := State.powerOn Config.default

/-! ## The reasons a step can stop -/

/-- Faults of the step. The model fault UNINIT of 60_exceptions.md R493 is none of these: it is recorded
in `State.faults` and the machine goes on. -/
inductive Fault where
  /-- The host is stuck: a register access that is not 32 bits wide, or at an offset that
  20_memory.md R106 does not list, has no step (R103). Raised by the register moves. Safe: the model
  stops where the spec gives no step. -/
  | registerAccess
  deriving DecidableEq, Repr

/-- Refusals of the step. -/
inductive Refusal where
  /-- An instruction without a meaning; raised by no arm of exec, all of which have theirs. Safe. -/
  | notModelled (mnemonic : String)
  /-- The configuration breaks a premise of 92_eei_decisions.md D63 (00_scope.md R7: refused, not
  modelled). Raised by step. Safe. -/
  | configNotAdmitted
  /-- A scheduled step of an internal agent that is not enabled (00_scope.md R12, 41_rx_frame_fsm.md
  R364): the machine has no such step. Raised by agent moves. Safe. -/
  | agentNotEnabled
  /-- A scheduled RADIO_RX_WRITE that breaks R113's requirement or a radio duty (60_exceptions.md R498
  duties 2, 3 and 4: it has no move in the model). Raised by ring-write moves. Safe. -/
  | radioDuty
  deriving DecidableEq, Repr

end Sys2Proof.Machine
end

