-- ==== Sys2Proof/Machine/Operands.lean ====
section
/-!
DEFINITION. Operand forms: how the spec packs values into registers, descriptors, frames and results,
and how it reads them back. Every function here is a pure function of bits.
-/

namespace Sys2Proof

/-! ## Slots (10_state.md R40, 30_encoding.md R186, R189) -/

/-- The slot number of a name (10_state.md R40). -/
def Slot.num : Slot → Nat
  | .setup => 0
  | .fsRx => 1
  | .rx => 2
  | .fsTx => 3
  | .cca => 4
  | .tx => 5
  | .ack => 6
  | .noop => 7
  | .tcA => 8
  | .tcB => 9

/-- The fixed kind of a slot (10_state.md R40, encoding R186). -/
def Slot.kind : Slot → BitVec 4
  | .setup => 0
  | .fsRx => 3
  | .rx => 2
  | .fsTx => 3
  | .cca => 4
  | .tx => 1
  | .ack => 1
  | .noop => 5
  | .tcA => 6
  | .tcB => 6

/-- mask(h), the event mask of a slot, bit 0 the event bit 8 (R189). -/
def Slot.eventMask : Slot → Byte
  | .rx => 0x7F
  | .tx => 0x70
  | .ack => 0x70
  | .noop => 0x70
  | .tcA => 0x80
  | .tcB => 0x80
  | .setup => 0x00
  | .fsRx => 0x00
  | .fsTx => 0x00
  | .cca => 0x00

/-- The arena slot of a timer-compare channel (R40). -/
def TcChan.slot : TcChan → Slot
  | .a => .tcA
  | .b => .tcB

/-- The principal slot of an operation class. -/
def OpClass.slot : OpClass → Slot
  | .rx => .rx
  | .tx => .tx
  | .noop => .noop

end Sys2Proof

namespace Sys2Proof.Machine

/-! ## Numbers of names (30_encoding.md R182 to R189, 10_state.md R40, R45 to R47) -/

/-- The CODE of RES (R182). -/
def ResultCode.num : ResultCode → Byte
  | .ok => 0x00
  | .deferred => 0x01
  | .busy => 0x02
  | .busyDecode => 0x03
  | .rejected => 0x04
  | .dcBlocked => 0x05
  | .invalidArg => 0x06
  | .illegalOp => 0x07
  | .fatal => 0x08

/-- RES: bits 7:0 CODE, bit 8 VALUE, bits 31:9 zero (R182). -/
def resWord (code : ResultCode) (value : Bool) : Word :=
  (0 : BitVec 23) ++ BitVec.ofBool value ++ code.num

/-- The slot a handle names; handles above 9 name none (30_encoding.md R161). -/
def slotOfNum : Nat → Option Slot
  | 0 => some .setup
  | 1 => some .fsRx
  | 2 => some .rx
  | 3 => some .fsTx
  | 4 => some .cca
  | 5 => some .tx
  | 6 => some .ack
  | 7 => some .noop
  | 8 => some .tcA
  | 9 => some .tcB
  | _ => none

/-- The class a SEL field names; 3..15 name none (R154). -/
def classOfSel (sel : BitVec 4) : Option OpClass :=
  match sel.toNat with
  | 0 => some .rx
  | 1 => some .tx
  | 2 => some .noop
  | _ => none

def CmdStatus.bits : CmdStatus → BitVec 2
  | .idle => 0
  | .active => 1
  | .done => 2
  | .error => 3

def Trigger.bits : Trigger → BitVec 2
  | .immediate => 0
  | .relPrev => 1
  | .absTime => 2

def Cond.bits : Cond → BitVec 2
  | .never => 0
  | .stopOnTrue => 1
  | .stopOnFalse => 2

/-- chainedNext: the slot number, 0xF for NONE (R186). -/
def nextBits : Option Slot → BitVec 4
  | some s => BitVec.ofNat 4 s.num
  | none => 0xF

def RingStatus.bits : RingStatus → BitVec 2
  | .pending => 0
  | .active => 1
  | .full => 2

def RxState.bits : RxState → BitVec 3
  | .idle => 0
  | .started => 1
  | .addr => 2
  | .secHdr => 3
  | .payload => 4
  | .trailer => 5
  | .halted => 6

def DcMode.num : DcMode → Nat
  | .normal => 0
  | .limited => 1
  | .critical => 2
  | .regulated => 3

/-- The index r of a diagnostic reason (R184). -/
def DiagReason.index : DiagReason → Fin 20
  | .modeSwitch => 0
  | .length => 1
  | .version => 2
  | .addrMode => 3
  | .secUnsupported => 4
  | .allocFail => 5
  | .filter => 6
  | .secLevelZero => 7
  | .secKeyIdMode => 8
  | .secLength => 9
  | .crcBad => 10
  | .bufferFull => 11
  | .ackUnmatched => 12
  | .ieZeroLen => 13
  | .ieMalformed => 14
  | .aborted => 15
  | .unexpectedEvent => 16
  | .ackRejected => 17
  | .dcOverflow => 18
  | .retryDropped => 19

/-! ## Command operands -/

/-- SEQ of SUBMIT_TX ARG1, bits 7:0 (30_encoding.md R157). -/
def txSeqField (a1 : Word) : Byte := a1.extractLsb' 0 8

/-- TXBUF of SUBMIT_TX ARG1, bits 15:8 (R157). -/
def txBufField (a1 : Word) : Byte := a1.extractLsb' 8 8

/-- LEN of SUBMIT_TX ARG1, bits 26:16 (R157). -/
def txLenField (a1 : Word) : BitVec 11 := a1.extractLsb' 16 11

/-- The reserved bits 31:27 of SUBMIT_TX ARG1 (R157). -/
def txReservedField (a1 : Word) : BitVec 5 := a1.extractLsb' 27 5

/-- SET_EXT: ext = ARG1 * 2^32 + ARG0 (R158). -/
def extOfArgs (a0 a1 : Word) : DWord := a1 ++ a0

/-! ## Descriptor parameters (30_encoding.md R187) -/

/-- FS_RX, FS_TX and TC param0: a 16-bit value, bits 31:16 zero. -/
def halfParam (v : Half) : Word := (0 : Half) ++ v

/-- RX param0: RING_N, as 40_scheduler.md R231 writes it. R187 gives it bits 3:0 and zero above, which RING_N = 16
(00_scope.md R6) does not fit: there R231's value 16 stands and bit 4 is 1 (DESIGN CHOICE, unsafe: log entry
32). -/
def ringParam (ringN : Nat) : Word := BitVec.ofNat 32 ringN

/-- TX param0: bits 7:0 TXBUF, bits 18:8 LEN, bits 31:19 zero. -/
def txParam (buf : Byte) (len : BitVec 11) : Word := (0 : BitVec 13) ++ len ++ buf

/-- ACK param0: bits 7:0 the sequence number, bit 8 frame pending, bit 9 enhanced, bits 31:10 zero. -/
def ackParam (seq : Byte) (framePending enhanced : Bool) : Word :=
  (0 : BitVec 22) ++ BitVec.ofBool enhanced ++ BitVec.ofBool framePending ++ seq

/-- Byte 0 of an immediate ACK: 0x02 | fAckFP * 0x10 (R203). -/
def ackByte0 (framePending : Bool) : Byte := if framePending then 0x12 else 0x02

/-- Byte 1 of an immediate ACK: SUPPORTED_FRAME_VERSION * 0x10 (R203). -/
def ackByte1 (version : BitVec 2) : Byte := (0 : BitVec 2) ++ version ++ (0 : BitVec 4)

/-- ACK param1 of an immediate ACK: its three MPDU bytes, byte 0 in bits 7:0 (R187, R203). -/
def immAckParam (framePending : Bool) (version : BitVec 2) (seq : Byte) : Word :=
  (0 : Byte) ++ seq ++ ackByte1 version ++ ackByte0 framePending

/-! ## Byte order (20_memory.md R101) -/

/-- The number a byte sequence holds, first byte least significant: the one place where the byte order
of frame fields is decided. -/
def leNat : List Byte → Nat
  | [] => 0
  | b :: r => b.toNat + 256 * leNat r

/-! ## PHR and frame control (30_encoding.md R195, R196; 41_rx_frame_fsm.md R307) -/

/-- MS, PHR byte 0 bit 7. -/
def phrModeSwitch (b0 : Byte) : Bool := b0.getLsbD 7

/-- phrLen = byte0[2:0] * 256 + byte1. -/
def phrLength (b0 b1 : Byte) : BitVec 11 := b0.extractLsb' 0 3 ++ b1

/-- fcsLen = 2 if byte0[4] = 1 else 4. -/
def phrFcsLen (b0 : Byte) : BitVec 3 := if b0.getLsbD 4 then 2 else 4

/-- The frame control field as read: bits 9:8 are 0 before frame version 2 (R307). -/
def fcfRead (version : BitVec 2) (raw : Half) : Half := if version.toNat < 2 then raw &&& 0xFCFF else raw

def fcfType (f : Half) : BitVec 3 := f.extractLsb' 0 3
def fcfSecurity (f : Half) : Bool := f.getLsbD 3
def fcfFramePending (f : Half) : Bool := f.getLsbD 4
def fcfAckRequest (f : Half) : Bool := f.getLsbD 5
def fcfPanIdc (f : Half) : Bool := f.getLsbD 6
def fcfSeqSuppressed (f : Half) : Bool := f.getLsbD 8
def fcfIePresent (f : Half) : Bool := f.getLsbD 9
def fcfDam (f : Half) : BitVec 2 := f.extractLsb' 10 2
def fcfVersion (f : Half) : BitVec 2 := f.extractLsb' 12 2
def fcfSam (f : Half) : BitVec 2 := f.extractLsb' 14 2

/-- seqLen = 0 if SNS = 1 else 1 (R196). -/
def fcfSeqLen (f : Half) : Nat := if fcfSeqSuppressed f then 0 else 1

/-! ## Addressing (30_encoding.md R198; 41_rx_frame_fsm.md R310 to R312) -/

/-- addrBytes(mode): 0, -, 2, 8; the reserved mode 1 never reaches an address (R308 check 4). -/
def addrBytes (mode : BitVec 2) : Nat :=
  match mode.toNat with
  | 2 => 2
  | 3 => 8
  | _ => 0

/-- PAN ID presence (destination, source) for frame version 2 (R311). -/
def panPresence2 (dam sam : BitVec 2) (panIdc : Bool) : Bool × Bool :=
  if dam = 0 ∧ sam = 0 then (panIdc, false)
  else if sam = 0 then (!panIdc, false)
  else if dam = 0 then (false, !panIdc)
  else if dam = 3 ∧ sam = 3 then (!panIdc, false)
  else (true, !panIdc)

/-- PAN ID presence (destination, source) for frame versions 0 and 1 (R312). -/
def panPresence01 (dam sam : BitVec 2) (panIdc : Bool) : Bool × Bool :=
  (dam ≠ 0, sam ≠ 0 ∧ ¬(panIdc ∧ dam ≠ 0))

/-- PAN ID presence under the supported frame version (R310). -/
def panPresence (version : BitVec 2) (f : Half) : Bool × Bool :=
  if version.toNat < 2 then panPresence01 (fcfDam f) (fcfSam f) (fcfPanIdc f)
  else panPresence2 (fcfDam f) (fcfSam f) (fcfPanIdc f)

/-- The address-field length in bytes (R310). -/
def addrFieldLen (version : BitVec 2) (f : Half) : Nat :=
  2 * (panPresence version f).1.toNat + addrBytes (fcfDam f) +
    2 * (panPresence version f).2.toNat + addrBytes (fcfSam f)

/-! ## Auxiliary security header (41_rx_frame_fsm.md R330, R332) -/

/-- The security control byte as read: bit 5 is 0 before frame version 2 (R331). -/
def secControl (version : BitVec 2) (raw : Byte) : Byte := if version.toNat < 2 then raw &&& 0xDF else raw

def secLevel (sc : Byte) : BitVec 3 := sc.extractLsb' 0 3
def secKeyIdMode (sc : Byte) : BitVec 2 := sc.extractLsb' 3 2
def secFcSuppressed (sc : Byte) : Bool := sc.getLsbD 5

/-- Bytes of the frame counter: 4, or 0 when suppressed (R330). -/
def secFcLen (sc : Byte) : Nat := if secFcSuppressed sc then 0 else 4

/-- Bytes of the key source by key-identifier mode: 0, 0, 4, 8 (R330). -/
def keySourceLen (mode : BitVec 2) : Nat :=
  match mode.toNat with
  | 2 => 4
  | 3 => 8
  | _ => 0

/-- keyIdLen(mode): 0, 1, 5, 9 (R330). -/
def keyIdLen (mode : BitVec 2) : Nat :=
  match mode.toNat with
  | 0 => 0
  | 1 => 1
  | 2 => 5
  | _ => 9

/-- auxLen(sc) (R330). -/
def auxLen (sc : Byte) : Nat := 1 + secFcLen sc + keyIdLen (secKeyIdMode sc)

/-- micLen(l): 0, 4, 8, 16 by l mod 4 (R332). -/
def micLenOf (level : BitVec 3) : Nat :=
  match level.toNat % 4 with
  | 0 => 0
  | 1 => 4
  | 2 => 8
  | _ => 16

/-! ## Information elements (41_rx_frame_fsm.md R352) -/

/-- The part of the information-element list the walk is in. -/
inductive IePart where
  | header | payload
  deriving DecidableEq, Repr

/-- How the walk over the information elements ends. -/
inductive IeResult where
  /-- Located, with the bytes of descriptors and contents, terminators excluded. -/
  | located (ieLen : Nat)
  | malformed
  | zeroLen
  deriving DecidableEq, Repr

/-- A header IE's length, id and type bit, from its descriptor d. -/
def ieHdrLen (d : Nat) : Nat := d % 128
def ieHdrId (d : Nat) : Nat := d / 128 % 256
def ieType (d : Nat) : Nat := d / 32768 % 2

/-- A payload IE's length and group, from its descriptor d. -/
def iePayLen (d : Nat) : Nat := d % 2048
def iePayGroup (d : Nat) : Nat := d / 2048 % 16

/-- The end of the walk at `exit loop` (R352): no IE located is the zero-length block. -/
def ieFinish (ieLen : Nat) : IeResult := if ieLen = 0 then .zeroLen else .located ieLen

/-- The loop of R352 over `buf` from offset `o` to `stop`, `ieLen` bytes located so far. Each round
moves `o` on by at least 2, so `stop + 1` rounds of fuel are always enough (log entry 27). -/
def ieLoop (buf : List Byte) (stop : Nat) (secured : Bool) : Nat → Nat → Nat → IePart → IeResult
  | 0, _, _, _ => .malformed
  | fuel + 1, o, ieLen, part =>
    if o = stop then ieFinish ieLen
    else if stop < o + 2 then .malformed
    else
      let d := (buf.getD o 0).toNat + 256 * (buf.getD (o + 1) 0).toNat
      match part with
      | .header =>
        if ieType d ≠ 0 then .malformed
        else if stop < o + 2 + ieHdrLen d then .malformed
        else if ieHdrId d = 0x7E then
          if secured then ieFinish ieLen
          else ieLoop buf stop secured fuel (o + 2 + ieHdrLen d) ieLen .payload
        else if ieHdrId d = 0x7F then ieFinish ieLen
        else ieLoop buf stop secured fuel (o + 2 + ieHdrLen d) (ieLen + 2 + ieHdrLen d) .header
      | .payload =>
        if ieType d ≠ 1 then .malformed
        else if stop < o + 2 + iePayLen d then .malformed
        else if iePayGroup d = 0xF then ieFinish ieLen
        else ieLoop buf stop secured fuel (o + 2 + iePayLen d) (ieLen + 2 + iePayLen d) .payload

/-- The walk of R352 over the bytes [from, stop) of `buf`. -/
def ieWalkBytes (buf : List Byte) (start stop : Nat) (secured : Bool) : IeResult :=
  ieLoop buf stop secured (stop + 1) start 0 .header

/-! ## Chain statuses (40_scheduler.md R262) -/

/-- The statuses a terminal event leaves in a chain of n members: a chain stops at its first member that
is not DONE, every later member is IDLE, and a stopped or preempted chain's last member is not DONE. -/
def chainStatuses (n : Nat) (kind : EndKind) (d : MemberDraw) : List CmdStatus :=
  let most := match kind with
    | .done => n
    | .stopped => n - 1
    | .preempted => n - 1
  let k := min d.done most
  List.replicate k .done ++
    (if k < n then (if d.err then .error else .idle) :: List.replicate (n - k - 1) .idle else [])

end Sys2Proof.Machine
end

