-- ==== Sys2Proof/Machine/Ops.lean ====
section
/-!
DEFINITION. The named operations over the state that the rules of 40 to 44 are written with
(00_scope.md R11): slots and classes, the RING memory, results, counters, messages, draws, the guards,
the descriptor builders, submission, and the discard of a frame.

RCS has no trap mechanism (60_exceptions.md R490): nothing saves a pc or changes a mode. What takes an
exception's place is `State.raiseFault` (R493), `State.result` (R491) and `State.discard` (R492), each
one shared operation here.
-/

namespace Sys2Proof.Machine

/-! ## Slots, classes, channels -/

def PerSlot.get {α : Type} (m : PerSlot α) : Slot → α
  | .setup => m.setup
  | .fsRx => m.fsRx
  | .rx => m.rx
  | .fsTx => m.fsTx
  | .cca => m.cca
  | .tx => m.tx
  | .ack => m.ack
  | .noop => m.noop
  | .tcA => m.tcA
  | .tcB => m.tcB

def PerSlot.set {α : Type} (m : PerSlot α) (s : Slot) (v : α) : PerSlot α :=
  match s with
  | .setup => { m with setup := v }
  | .fsRx => { m with fsRx := v }
  | .rx => { m with rx := v }
  | .fsTx => { m with fsTx := v }
  | .cca => { m with cca := v }
  | .tx => { m with tx := v }
  | .ack => { m with ack := v }
  | .noop => { m with noop := v }
  | .tcA => { m with tcA := v }
  | .tcB => { m with tcB := v }

def PerClass.get {α : Type} (m : PerClass α) : OpClass → α
  | .rx => m.rx
  | .tx => m.tx
  | .noop => m.noop

def PerClass.set {α : Type} (m : PerClass α) (c : OpClass) (v : α) : PerClass α :=
  match c with
  | .rx => { m with rx := v }
  | .tx => { m with tx := v }
  | .noop => { m with noop := v }

def PerChan.get {α : Type} (m : PerChan α) : TcChan → α
  | .a => m.a
  | .b => m.b

def PerChan.set {α : Type} (m : PerChan α) (c : TcChan) (v : α) : PerChan α :=
  match c with
  | .a => { m with a := v }
  | .b => { m with b := v }

/-! ## The RING memory (20_memory.md R100, R113) -/

/-- What an address of the RING space that nothing has written reads as. The spec leaves it open
(93_implementation_defined.md U2) and no rule reads such a byte (DESIGN CHOICE, unsafe: log entry 15). -/
def Memory.unlisted : Byte := 0

/-- The byte at an address. -/
def Memory.read : Memory → Nat → Byte
  | [], _ => Memory.unlisted
  | (k, v) :: r, a => if k = a then v else Memory.read r a

/-- Write one byte, keeping the canonical form: writing what an unlisted address reads as removes the
pair. -/
def Memory.write : Memory → Nat → Byte → Memory
  | [], a, b => if b = Memory.unlisted then [] else [(a, b)]
  | (k, v) :: r, a, b =>
    if a < k then (if b = Memory.unlisted then (k, v) :: r else (a, b) :: (k, v) :: r)
    else if a = k then (if b = Memory.unlisted then r else (a, b) :: r)
    else (k, v) :: Memory.write r a b

/-- Every address of the memory is at least `lo`, the addresses rise strictly, and no pair is what an
unlisted address reads as. -/
def Memory.wfFrom (lo : Nat) : Memory → Bool
  | [] => true
  | (k, v) :: r => decide (lo ≤ k) && decide (v ≠ Memory.unlisted) && Memory.wfFrom (k + 1) r

/-- The canonical form. -/
def Memory.wf (m : Memory) : Bool := Memory.wfFrom 0 m

/-- The address of byte `off` of ring entry `k` in the model's numbering: entries stand 4096 bytes apart,
the reach of the 12-bit rxCount (log entry 15). -/
def ringAddr (k : BitVec 4) (off : Nat) : Nat := k.toNat * 4096 + off

/-- byte(k, off) = MemRead(RING, k, off, 1) (00_scope.md R11). -/
def State.ringByte (s : State) (k : BitVec 4) (off : Nat) : Byte := s.ringData.read (ringAddr k off)

/-- MemRead(RING, k, off, n) (R11). -/
def State.ringBytes (s : State) (k : BitVec 4) (off : Nat) : Nat → List Byte
  | 0 => []
  | n + 1 => s.ringByte k off :: State.ringBytes s k (off + 1) n

/-- LEn(k, off, n): the little-endian value of n ring bytes (41_rx_frame_fsm.md, notation). -/
def State.ringLe (s : State) (k : BitVec 4) (off n : Nat) : Nat := leNat (s.ringBytes k off n)

/-- Write bytes at rising addresses from `a`. -/
def Memory.writeList (m : Memory) (a : Nat) : List Byte → Memory
  | [] => m
  | b :: r => Memory.writeList (m.write a b) (a + 1) r

/-- The control part of ring entry k. -/
def State.entry (s : State) (k : BitVec 4) : RingEntry := s.ring.getD k.toNat ⟨.pending, 0⟩

/-- rxCount of ring entry k. -/
def State.rxCount (s : State) (k : BitVec 4) : Nat := (s.entry k).rxCount.toNat

/-- Ring entry k is FULL. -/
def State.entryFull (s : State) (k : BitVec 4) : Bool := decide ((s.entry k).status = .full)

def State.setEntry (s : State) (k : BitVec 4) (e : RingEntry) : State :=
  { s with ring := s.ring.set k.toNat e }

/-- Overwrite `l` from offset `off` with `new`, keeping its length. -/
def spliceAt {α : Type} (l : List α) (off : Nat) (new : List α) : List α :=
  (l.take off ++ new ++ l.drop (off + new.length)).take l.length

/-! ## Messages, counters, results, faults -/

/-- emit M: append to the output history (00_scope.md R11). -/
def State.emit (s : State) (m : OutMsg) : State := { s with out := s.out ++ [m] }

/-- One more, and 0xFFFF stays (10_state.md R55). -/
def saturate (v : BitVec 16) : BitVec 16 := if v = 0xFFFF then v else v + 1

/-- count(r) (R55). -/
def State.count (s : State) (r : DiagReason) : State :=
  { s with diag := s.diag.set r.index.val (saturate (s.diag.get r.index)) r.index.isLt }

/-- result(code, value): write RES and end the command (R11). -/
def State.resultV (s : State) (code : ResultCode) (value : Bool) : State :=
  { s with res := resWord code value }

/-- result(code) (R11). -/
def State.result (s : State) (code : ResultCode) : State := s.resultV code false

/-- raise Fault(r): the reason joins the set, and the step changes nothing else (60_exceptions.md R493). -/
def State.raiseFault (s : State) (r : FaultReason) : State :=
  if r ∈ s.faults then s else { s with faults := s.faults ++ [r] }

/-- The common guard of every command but INIT (00_scope.md R12). -/
def State.guardCmd (s : State) (body : State → State) : State :=
  if s.init = false then s.raiseFault .uninit
  else if s.fatal then s.result .fatal
  else body s

/-- guardEvt (R12): a fatal machine ignores every event. -/
def State.guardEvt (s : State) (body : State → State) : State :=
  if s.init = false then s.raiseFault .uninit
  else if s.fatal then s
  else body s

/-! ## Draws (00_scope.md R9; log entry 9) -/

/-- Advance the counter that indexes the free values. -/
def State.bumpFree (s : State) : State := { s with draws := { s.draws with free := s.draws.free + 1 } }

/-- draw ringAllocOk : Bool. -/
def State.drawRingAllocOk (s : State) : Bool × State :=
  match s.draws.ringAllocOk with
  | b :: r => (b, { s with draws := { s.draws with ringAllocOk := r } })
  | [] => (Config.freeBool s.draws.free, s.bumpFree)

/-- draw accept : Bool, the radio's answer to a Submit (R232). -/
def State.drawAccept (s : State) : Bool × State :=
  match s.draws.accept with
  | b :: r => (b, { s with draws := { s.draws with accept := r } })
  | [] => (Config.freeBool s.draws.free, s.bumpFree)

/-- draw allocOk : Bool, the partial-frame allocator's answer (R306). -/
def State.drawAllocOk (s : State) : Bool × State :=
  match s.draws.allocOk with
  | b :: r => (b, { s with draws := { s.draws with allocOk := r } })
  | [] => (Config.freeBool s.draws.free, s.bumpFree)

/-- draw ratNow : UInt32, the radio-timer sample (R253). -/
def State.drawRatNow (s : State) : Word × State :=
  match s.draws.ratNow with
  | w :: r => (w, { s with draws := { s.draws with ratNow := r } })
  | [] => (Config.freeWord s.draws.free, s.bumpFree)

/-- draw ackStart : UInt32, an ACK's start time (R321, R353). -/
def State.drawAckStart (s : State) : Word × State :=
  match s.draws.ackStart with
  | w :: r => (w, { s with draws := { s.draws with ackStart := r } })
  | [] => (Config.freeWord s.draws.free, s.bumpFree)

/-- draw enhAckIEs : byte sequence (R353). -/
def State.drawEnhAckIEs (s : State) : List Byte × State :=
  match s.draws.enhAckIEs with
  | l :: r => (l, { s with draws := { s.draws with enhAckIEs := r } })
  | [] => (Config.freeBytes s.draws.free, s.bumpFree)

/-- draw the statuses a terminal event leaves in its chain (R262). -/
def State.drawMembers (s : State) : MemberDraw × State :=
  match s.draws.members with
  | d :: r => (d, { s with draws := { s.draws with members := r } })
  | [] => (⟨Config.freeNat s.draws.free, Config.freeBool s.draws.free⟩, s.bumpFree)

/-- What a host reads as the status of a descriptor in flight (93_implementation_defined.md U3). -/
def State.drawStatusBits (s : State) : BitVec 2 × State :=
  match s.draws.statusBits with
  | b :: r => (b, { s with draws := { s.draws with statusBits := r } })
  | [] => (Config.freeStatusBits s.draws.free, s.bumpFree)

/-- What a host reads of an unspecified register (U1). -/
def State.drawUnspecified (s : State) : Word × State :=
  match s.draws.unspecified with
  | w :: r => (w, { s with draws := { s.draws with unspecified := r } })
  | [] => (Config.freeWord s.draws.free, s.bumpFree)

/-! ## Descriptor builders (40_scheduler.md R231) -/

/-- build(slot, trig, nxt, cnd, p0, p1, t). -/
def State.build (s : State) (slot : Slot) (trig : Trigger) (nxt : Option Slot) (cnd : Cond)
    (p0 p1 t : Word) : State :=
  { s with desc := s.desc.set slot ⟨.idle, trig, t, nxt, cnd, p0, p1⟩ }

/-- needFS(ch): the programmed channel is unknown or another. -/
def State.needFs (s : State) (ch : Half) : Bool := !s.progValid || decide (s.progChannel ≠ ch)

/-- The members of chainRx(ch). -/
def State.rxChain (s : State) (ch : Half) : List Slot := if s.needFs ch then [.fsRx, .rx] else [.rx]

/-- The members of chainTx(ch, cca, ...). -/
def State.txChain (s : State) (ch : Half) (cca : Bool) : List Slot :=
  (if s.needFs ch then [.fsTx] else []) ++ (if cca then [.cca] else []) ++ [.tx]

/-- Build the members of a chain in order: the head IMMEDIATE, later members REL_PREV, each linked to
the next, CCA with STOP_ON_FALSE (R188, R231). -/
def State.buildChain (s : State) (p0 p1 : Slot → Word) (head : Bool) : List Slot → State
  | [] => s
  | x :: rest =>
    (s.build x (if head then .immediate else .relPrev) rest.head?
        (if x = .cca then .stopOnFalse else .never) (p0 x) (p1 x) 0).buildChain p0 p1 false rest

/-- chainRx(ch): the arena after the builds. -/
def State.chainRx (s : State) (ch : Half) : State :=
  s.buildChain (fun x => if x = .rx then ringParam s.cfg.ringN else halfParam ch) (fun _ => 0) true
    (s.rxChain ch)

/-- chainTx(ch, cca, buf, len, air): the arena after the builds. -/
def State.chainTx (s : State) (ch : Half) (cca : Bool) (buf : Byte) (len : BitVec 11) (air : Word) :
    State :=
  s.buildChain
    (fun x => if x = .tx then txParam buf len else if x = .fsTx then halfParam ch else 0)
    (fun x => if x = .tx then air else 0) true (s.txChain ch cca)

/-- chainNoop(): the arena after the build. -/
def State.chainNoop (s : State) : State := s.buildChain (fun _ => 0) (fun _ => 0) true [.noop]

/-! ## Submission (40_scheduler.md R232) -/

/-- submit(p, m, start), m with head `head`: emit the Submit message and draw the radio's answer. -/
def State.submit (s : State) (p head : Slot) (start : Option Word) : Bool × State :=
  (s.emit (.submit p head p.eventMask start)).drawAccept

/-- Set the in-flight bit of every slot of a list. -/
def PerSlot.setAll (m : PerSlot Bool) (v : Bool) : List Slot → PerSlot Bool
  | [] => m
  | x :: rest => (m.set x v).setAll v rest

/-- onAccepted(p, m): the chain is in flight and counts once, under its principal. -/
def State.onAccepted (s : State) (p : Slot) (m : List Slot) : State :=
  let s1 := { s with inflight := s.inflight.setAll true m }
  let s2 := if s1.cntTotal = 0 then s1.emit (.powerVote .hold) else s1
  { s2 with
    cntTotal := s2.cntTotal + 1
    cntRx := if p = .rx then s2.cntRx + 1 else s2.cntRx }

/-! ## Discarding a frame (41_rx_frame_fsm.md R302 to R304) -/

/-- flushEntry(k) (R302). -/
def State.flushEntry (s : State) (k : BitVec 4) : State :=
  let s1 := s.setEntry k ⟨.pending, 0⟩
  let s2 := if s1.rdIdx = k then
      { s1 with rdIdx := BitVec.ofNat 4 ((k.toNat + 1) % s1.cfg.ringN) } else s1
  s2.emit (.flushEntry k)

/-- cancelAck() (R304). -/
def State.cancelAck (s : State) : State :=
  let s1 := if s.pf.ackArmed && s.ackQueued then { s.emit (.abort .ack) with ackQueued := false } else s
  { s1 with pf := { s1.pf with ackArmed := false } }

/-- Release the partial frame: S.pf.valid <- 0. -/
def State.releasePf (s : State) : State := { s with pf := { s.pf with valid := false } }

/-- discard(reason) (R303). -/
def State.discard (s : State) (r : DiagReason) : State :=
  { ((s.cancelAck.releasePf).flushEntry s.curEntry).count r with rxState := .halted }

end Sys2Proof.Machine
end

