-- ==== Sys2Proof/Machine/Flags.lean ====
section
/-!
DEFINITION. Every derived flag and predicate of the spec: the status bits (10_state.md R35, R57), the
mid-decode set, the address filter, the acknowledgment predicates, the duty-cycle thresholds and modes,
and which internal agents are enabled.
-/

namespace Sys2Proof.Machine

/-! ## Status -/

/-- Mid-decode: rxState in {STARTED, ADDR, SECHDR, PAYLOAD, TRAILER} (00_scope.md R13). -/
def RxState.midDecode : RxState → Bool
  | .idle => false
  | .started => true
  | .addr => true
  | .secHdr => true
  | .payload => true
  | .trailer => true
  | .halted => false

/-- PD_VOTE = (init = 1 and fatal = 0 and cntTotal = 0) (10_state.md R35). -/
def State.pdVote (s : State) : Bool := s.init && !s.fatal && decide (s.cntTotal = 0)

/-- STATUS bit 3: S.faults is not empty (20_memory.md R106). -/
def State.faulted (s : State) : Bool := !s.faults.isEmpty

/-- The machine takes internal steps: init = 1 and fatal = 0 (00_scope.md R12). -/
def State.running (s : State) : Bool := s.init && !s.fatal

/-! ## The address filter (41_rx_frame_fsm.md R314) -/

/-- Frame types (30_encoding.md R197). -/
def typeBeacon : BitVec 3 := 0
def typeData : BitVec 3 := 1
def typeAck : BitVec 3 := 2
def typeCommand : BitVec 3 := 3

/-- The destination PAN passes: absent, the local one, or the broadcast PAN. -/
def State.panPasses (s : State) : Bool :=
  !s.pf.dstPanPresent || decide (s.pf.dstPan = s.fPan) || decide (s.pf.dstPan = 0xFFFF)

/-- The destination address passes, by its mode. -/
def State.addrPasses (s : State) : Bool :=
  match s.pf.dstMode.toNat with
  | 2 => decide (s.pf.dstAddr = s.fShort.setWidth 64) || decide (s.pf.dstAddr = 0xFFFF)
  | 3 => decide (s.pf.dstAddr = s.fExt)
  | 0 =>
    decide (fcfType s.pf.fcf = typeBeacon) || decide (fcfType s.pf.fcf = typeAck) ||
      (s.panCoord && (!s.pf.srcPanPresent || decide (s.pf.srcPan = s.fPan)))
  | _ => true

/-- filterPass() (R314). -/
def State.filterPass (s : State) : Bool :=
  s.fPromisc || (s.fAllow.getLsbD (fcfType s.pf.fcf).toNat && s.panPasses && s.addrPasses)

/-! ## Acknowledgment predicates (41_rx_frame_fsm.md R320) -/

/-- enhAckRequired(). -/
def State.enhAckRequired (s : State) : Bool :=
  s.fEnhAck && fcfAckRequest s.pf.fcf && !s.fPromisc &&
    (decide (fcfType s.pf.fcf = typeData) || decide (fcfType s.pf.fcf = typeCommand))

/-- ackNeeded(). -/
def State.ackNeeded (s : State) : Bool :=
  fcfAckRequest s.pf.fcf && s.pf.seqPresent && !s.fPromisc &&
    decide (fcfType s.pf.fcf ≠ typeAck) && !s.enhAckRequired

/-! ## Duty-cycle thresholds and modes (42_duty_cycle.md R390, R391, R395) -/

/-- effT(T): the threshold lowered by the beacon airtime, floored at 0, while PAN coordinator and
beacon-enabled (R390). -/
def State.effT (s : State) (t : Word) : Nat :=
  if s.panCoord && s.beaconEn then t.toNat - s.dcBeacon.toNat else t.toNat

/-- classify(t) (R391). -/
def State.classify (s : State) (t : Nat) : DcMode :=
  if s.effT s.cfg.tRegulated ≤ t then .regulated
  else if s.effT s.cfg.tCritical ≤ t then .critical
  else if s.effT s.cfg.tLimited ≤ t then .limited
  else .normal

/-- The larger of two modes. -/
def DcMode.max (a b : DcMode) : DcMode := if a.num < b.num then b else a

/-- dcAllowed(d) (R395). -/
def State.dcAllowed (s : State) (d : Word) : Bool :=
  !s.dcRecorded || decide (s.dcTotal.toNat + d.toNat < s.effT s.cfg.tRegulated)

/-! ## Enabling of the internal agents (41_rx_frame_fsm.md R364, 43_backoff_timers.md R432 to R441) -/

/-- The HDR step is enabled: FULL, or n ≥ 4 and n ≥ 4 + seqLen (R306). -/
def State.hdrReady (s : State) : Bool :=
  let k := s.curEntry
  s.entryFull k ||
    (decide (4 ≤ s.rxCount k) &&
      decide (4 + fcfSeqLen (fcfRead s.cfg.frameVersion (BitVec.ofNat 16 (s.ringLe k 2 2))) ≤ s.rxCount k))

/-- The ADDR step is enabled: FULL, or n ≥ 2 + mhrBase (R313). -/
def State.addrReady (s : State) : Bool :=
  s.entryFull s.curEntry || decide (2 + s.pf.mhrBase.toNat ≤ s.rxCount s.curEntry)

/-- The security control byte at MPDU offset mhrBase, as read (R331). -/
def State.secControlByte (s : State) : Byte :=
  secControl s.cfg.frameVersion (s.ringByte s.curEntry (2 + s.pf.mhrBase.toNat))

/-- The SECHDR step is enabled (R331): FULL, or n ≥ 2 + mpduLen, or the auxiliary header is there. Its length is
that of the security control byte as R330 reads it, bit 5 being 0 before frame version 2, where R331's trigger
writes the byte itself (DEDUCED, unsafe: log entry 33). -/
def State.secHdrReady (s : State) : Bool :=
  let k := s.curEntry
  s.entryFull k || decide (2 + s.pf.mpduLen.toNat ≤ s.rxCount k) ||
    (decide (3 + s.pf.mhrBase.toNat ≤ s.rxCount k) &&
      decide (2 + s.pf.mhrBase.toNat + auxLen s.secControlByte ≤ s.rxCount k))

/-- The PAYLOAD step is enabled: FULL, or n ≥ 2 + mpduLen (R340). -/
def State.payloadReady (s : State) : Bool :=
  s.entryFull s.curEntry || decide (2 + s.pf.mpduLen.toNat ≤ s.rxCount s.curEntry)

/-- A PARSER step is enabled, but for the guard init = 1, fatal = 0 (R364). -/
def State.stageReady (s : State) : Bool :=
  match s.rxState with
  | .started => s.hdrReady
  | .addr => s.addrReady
  | .secHdr => s.secHdrReady
  | .payload => s.payloadReady
  | .idle => false
  | .trailer => false
  | .halted => false

/-- An internal agent is enabled (00_scope.md R12, R364; 43_backoff_timers.md R432, R435, R441). -/
def State.enabled (s : State) (a : Agent) : Bool :=
  s.running &&
    match a with
    | .parser => s.stageReady
    | .boTimer c => (s.bo.get c).running
    | .retry c => s.retryEvt.get c
    | .ackTimer => s.ackWait

end Sys2Proof.Machine
end

