-- ==== Sys2Proof/Machine/DutyCycle.lean ====
section
/-!
DEFINITION. The duty-cycle window accumulator and the role (42_duty_cycle.md).
-/

namespace Sys2Proof.Machine

/-- notifyMode(old): one DcModeChanged when the mode differs from `old` (R398). -/
def State.notifyMode (s : State) (old : DcMode) : State :=
  if s.dcMode ≠ old then s.emit (.dcModeChanged s.dcMode) else s

/-- Bucket i of the window. -/
def State.bucket (s : State) (i : Nat) : Word := s.dcBucket.getD i 0

/-- dcAdd(d) (R392); the caller has checked that the total does not overflow. -/
def State.dcAdd (s : State) (d : Word) : State :=
  let s1 := { s with
    dcBucket := s.dcBucket.set s.dcCur.toNat (s.bucket s.dcCur.toNat + d)
    dcTotal := s.dcTotal + d
    dcRecorded := true }
  let s2 := { s1 with dcMode := s1.dcMode.max (s1.classify s1.dcTotal.toNat) }
  s2.notifyMode s.dcMode

/-- The total would pass 2^32 - 1. -/
def State.dcOverflows (s : State) (d : Word) : Bool := decide (2 ^ 32 - 1 < s.dcTotal.toNat + d.toNat)

/-- dcRecordInternal(d), the block's own record (R392). -/
def State.dcRecordInternal (s : State) (d : Word) : State :=
  if s.dcOverflows d then s.count .dcOverflow else s.dcAdd d

/-- The oldest bucket: (dcCur + 1) mod N_BUCKETS (R396). -/
def State.oldestBucket (s : State) : Nat := (s.dcCur.toNat + 1) % s.cfg.nBuckets

/-- DC_RECORD (R393). -/
def cmdDcRecord (s : State) : State :=
  s.guardCmd fun s =>
    if s.dcOverflows s.arg0 then s.result .invalidArg else (s.dcAdd s.arg0).result .ok

/-- DC_CHECK (R394). -/
def cmdDcCheck (s : State) : State := s.guardCmd fun s => s.resultV .ok (s.dcAllowed s.arg0)

/-- The body of DC_ADVANCE (R396). -/
def State.dcAdvance (s : State) : State :=
  let o := s.oldestBucket
  let s1 := { s with
    dcTotal := s.dcTotal - s.bucket o
    dcBucket := s.dcBucket.set o 0
    dcCur := BitVec.ofNat 6 o }
  let s2 := { s1 with dcMode := s1.classify s1.dcTotal.toNat }
  s2.notifyMode s.dcMode

/-- DC_ADVANCE (R396). -/
def cmdDcAdvance (s : State) : State := s.guardCmd fun s => s.dcAdvance.result .ok

/-- SET_ROLE (R397). -/
def cmdSetRole (panCoord beaconEn : Bool) (s : State) : State :=
  s.guardCmd fun s =>
    { s with panCoord := panCoord, beaconEn := beaconEn, dcBeacon := s.arg0 }.result .ok

/-- Meaning of DC_RECORD. -/
def execDcRecord (s : State) : Host.Outcome State Fault Refusal := .next (cmdDcRecord s)

/-- Meaning of DC_CHECK. -/
def execDcCheck (s : State) : Host.Outcome State Fault Refusal := .next (cmdDcCheck s)

/-- Meaning of DC_ADVANCE. -/
def execDcAdvance (s : State) : Host.Outcome State Fault Refusal := .next (cmdDcAdvance s)

/-- Meaning of SET_ROLE. -/
def execSetRole (panCoord beaconEn : Bool) (s : State) : Host.Outcome State Fault Refusal :=
  .next (cmdSetRole panCoord beaconEn s)

end Sys2Proof.Machine
end

