-- ==== Sys2Proof/Machine/Receive.lean ====
section
/-!
DEFINITION. The receive frame state machine: the stage steps, the frame events and the dispatch of a
frame (41_rx_frame_fsm.md). The event bodies here run inside the guard of their word (R161).
-/

namespace Sys2Proof.Machine

/-! ## Started (R305 to R308) -/

/-- PREAMBLE (R305); its handle is RX, the only one whose mask holds the bit. -/
def State.preambleEvent (s : State) : State :=
  if s.inflight.rx then
    let s1 := if s.rxState.midDecode then (s.discard .aborted).count .unexpectedEvent else s
    { s1 with
      pf := PartialFrame.empty
      frameHandle := BitVec.ofNat 8 Slot.rx.num
      curEntry := s1.rdIdx
      rxState := .started }
  else s.count .unexpectedEvent

/-- mpduLen = phrLen - fcsLen, meaningful once check 2 has passed (R307). -/
def hdrMpduLen (b0 b1 : Byte) : Nat := (phrLength b0 b1).toNat - (phrFcsLen b0).toNat

/-- mhrBase = 2 + seqLen + addrLen (R306). -/
def hdrMhrBase (version : BitVec 2) (fcf : Half) : Nat := 2 + fcfSeqLen fcf + addrFieldLen version fcf

/-- Checks 2 to 6 of R308, in order; the first that fails names the reason. -/
def startedChecks (c : Config) (b0 b1 : Byte) (fcf : Half) : Option DiagReason :=
  if c.maxFrameSize < (phrLength b0 b1).toNat ∨ (phrLength b0 b1).toNat < (phrFcsLen b0).toNat ∨
      hdrMpduLen b0 b1 < 2 + fcfSeqLen fcf then some .length
  else if fcfVersion fcf ≠ c.frameVersion then some .version
  else if fcfDam fcf = 1 ∨ fcfSam fcf = 1 then some .addrMode
  else if fcfSecurity fcf ∧ c.securityEnabled = false then some .secUnsupported
  else if hdrMpduLen b0 b1 < hdrMhrBase c.frameVersion fcf then some .length
  else none

/-- The partial frame a passed header allocates (R306). -/
def State.headerFrame (s : State) (b0 b1 : Byte) (fcf : Half) : PartialFrame :=
  { s.pf with
    valid := true
    phrLen := phrLength b0 b1
    fcsLen := phrFcsLen b0
    mpduLen := BitVec.ofNat 11 (hdrMpduLen b0 b1)
    fcf := fcf
    seqPresent := !fcfSeqSuppressed fcf
    seq := if fcfSeqSuppressed fcf then 0 else s.ringByte s.curEntry 4
    dstMode := fcfDam fcf
    srcMode := fcfSam fcf
    dstPanPresent := (panPresence s.cfg.frameVersion fcf).1
    srcPanPresent := (panPresence s.cfg.frameVersion fcf).2
    addrLen := BitVec.ofNat 5 (addrFieldLen s.cfg.frameVersion fcf)
    mhrBase := BitVec.ofNat 11 (hdrMhrBase s.cfg.frameVersion fcf)
    buf := List.replicate (hdrMpduLen b0 b1) 0 }

/-- The allocation at the end of the HDR step (R306). -/
def State.hdrAllocate (s : State) (b0 b1 : Byte) (fcf : Half) : State :=
  let (ok, s1) := s.drawAllocOk
  if ok then { s1 with pf := s1.headerFrame b0 b1 fcf, rxState := .addr } else s1.discard .allocFail

/-- The FCF of the current entry, as read (R307). -/
def State.curFcf (s : State) : Half :=
  fcfRead s.cfg.frameVersion (BitVec.ofNat 16 (s.ringLe s.curEntry 2 2))

/-- HDR step (R306). -/
def State.hdrStep (s : State) : State :=
  let k := s.curEntry
  let n := s.rxCount k
  if n < 2 then s.discard .length
  else if phrModeSwitch (s.ringByte k 0) then s.discard .modeSwitch
  else if n < 4 then s.discard .length
  else if n < 4 + fcfSeqLen s.curFcf then s.discard .length
  else match startedChecks s.cfg (s.ringByte k 0) (s.ringByte k 1) s.curFcf with
    | some r => s.discard r
    | none => s.hdrAllocate (s.ringByte k 0) (s.ringByte k 1) s.curFcf

/-! ## Acknowledgments (R321, R322, R353) -/

/-- The start of an ACK submission: draw its start time, build the descriptor, submit it. -/
def State.submitAck (s : State) (p0 p1 : Word) : Bool × State :=
  let (start, s1) := s.drawAckStart
  (s1.build .ack .absTime none .never p0 p1 start).submit .ack .ack (some start)

/-- submitImmAck() (R321), with ackAccepted() (R322). -/
def State.submitImmAck (s : State) : State :=
  if s.inflight.ack then s.count .ackRejected
  else
    let (accept, s1) := s.submitAck (ackParam s.pf.seq s.fAckFP false)
      (immAckParam s.fAckFP s.cfg.frameVersion s.pf.seq)
    if accept then
      let s2 := s1.onAccepted .ack [.ack]
      { s2 with ackQueued := true, pf := { s2.pf with ackArmed := true } }
    else s1.count .ackRejected

/-- submitEnhAck() (R353). -/
def State.submitEnhAck (s : State) : State :=
  if s.inflight.ack then s.count .ackRejected
  else
    let (ies, s1) := s.drawEnhAckIEs
    let (accept, s2) := s1.submitAck (ackParam s1.pf.seq s1.fAckFP true) (BitVec.ofNat 32 ies.length)
    if accept then
      let s3 := s2.onAccepted .ack [.ack]
      { s3 with ackQueued := true, pf := { s3.pf with enhAckSubmitted := true } }
    else s2.count .ackRejected

/-! ## Address stage (R313) -/

/-- The ring offset of the first address byte: PHR, FCF, and the sequence number if present. -/
def State.addrOffset (s : State) : Nat := 4 + s.pf.seqPresent.toNat

/-- The partial frame with its addresses read and its header copied (R313). -/
def State.addressFrame (s : State) : PartialFrame :=
  let k := s.curEntry
  let o1 := s.addrOffset
  let o2 := o1 + 2 * s.pf.dstPanPresent.toNat
  let o3 := o2 + addrBytes s.pf.dstMode
  let o4 := o3 + 2 * s.pf.srcPanPresent.toNat
  { s.pf with
    dstPan := if s.pf.dstPanPresent then BitVec.ofNat 16 (s.ringLe k o1 2) else s.pf.dstPan
    dstAddr := BitVec.ofNat 64 (s.ringLe k o2 (addrBytes s.pf.dstMode))
    srcPan := if s.pf.srcPanPresent then BitVec.ofNat 16 (s.ringLe k o3 2) else s.pf.srcPan
    srcAddr := BitVec.ofNat 64 (s.ringLe k o4 (addrBytes s.pf.srcMode))
    buf := spliceAt s.pf.buf 0 (s.ringBytes k 2 s.pf.mhrBase.toNat) }

/-- The end of the ADDR step, after the filter has passed (R313). -/
def State.addrPass (s : State) : State :=
  let s1 := if s.ackNeeded then s.submitImmAck else s
  { s1 with
    pf := { s1.pf with mhrLen := s1.pf.mhrBase }
    rxState := if fcfSecurity s1.pf.fcf then .secHdr else .payload }

/-- ADDR step (R313). -/
def State.addrStep (s : State) : State :=
  if s.rxCount s.curEntry < 2 + s.pf.mhrBase.toNat then s.discard .length
  else
    let s1 := { s with pf := s.addressFrame }
    if s1.filterPass then s1.addrPass else s1.discard .filter

/-! ## Security header (R331) -/

/-- The partial frame with its auxiliary security header read, security control byte `sc` (R331). -/
def State.securityFrame (s : State) (sc : Byte) : PartialFrame :=
  let k := s.curEntry
  let b := s.pf.mhrBase.toNat
  let o1 := 2 + b + 1
  let o2 := o1 + secFcLen sc
  let o3 := o2 + keySourceLen (secKeyIdMode sc)
  { s.pf with
    frameCounter := if secFcSuppressed sc then 0 else BitVec.ofNat 32 (s.ringLe k o1 4)
    keySource := BitVec.ofNat 64 (s.ringLe k o2 (keySourceLen (secKeyIdMode sc)))
    keyIndex := if secKeyIdMode sc ≠ 0 then s.ringByte k o3 else 0
    secCtl := sc
    keyIdMode := secKeyIdMode sc
    micLen := BitVec.ofNat 5 (micLenOf (secLevel sc))
    buf := spliceAt s.pf.buf b (s.ringBytes k (2 + b) (auxLen sc))
    mhrLen := BitVec.ofNat 11 (b + auxLen sc) }

/-- SECHDR step (R331). -/
def State.secHdrStep (s : State) : State :=
  let n := s.rxCount s.curEntry
  let b := s.pf.mhrBase.toNat
  let sc := s.secControlByte
  if s.pf.mpduLen.toNat < b + 1 then s.discard .secLength
  else if n < 2 + b + 1 then s.discard .length
  else if secLevel sc = 0 then s.discard .secLevelZero
  else if s.cfg.keyIdModeValid.getLsbD (secKeyIdMode sc).toNat = false then s.discard .secKeyIdMode
  else if s.pf.mpduLen.toNat < b + auxLen sc + micLenOf (secLevel sc) then s.discard .secLength
  else if n < 2 + b + auxLen sc then s.discard .length
  else { s with pf := s.securityFrame sc, rxState := .payload }

/-! ## Payload (R340) -/

/-- The partial frame with its payload copied (R340). -/
def State.payloadFrame (s : State) : PartialFrame :=
  let m := s.pf.mhrLen.toNat
  let len := s.pf.mpduLen.toNat - m
  { s.pf with
    buf := spliceAt s.pf.buf m (s.ringBytes s.curEntry (2 + m) len)
    payloadLen := BitVec.ofNat 11 len }

/-- PAYLOAD step (R340). -/
def State.payloadStep (s : State) : State :=
  if s.rxCount s.curEntry < 2 + s.pf.mpduLen.toNat then s.discard .length
  else { s with pf := s.payloadFrame, rxState := .trailer }

/-- The PARSER's step in the current receive state (R301); in the states that wait for events there is
none and nothing changes. -/
def State.stageStep (s : State) : State :=
  match s.rxState with
  | .started => s.hdrStep
  | .addr => s.addrStep
  | .secHdr => s.secHdrStep
  | .payload => s.payloadStep
  | .idle => s
  | .trailer => s
  | .halted => s

/-! ## Frame end and dispatch (R345 to R354) -/

/-- runDueStages() (R346): at most four stages are due, and each passes or discards. -/
def State.runDueStages (s : State) : State := s.stageStep.stageStep.stageStep.stageStep

/-- The delivered record of the partial frame (30_encoding.md R194). -/
def State.frameRecord (s : State) : FrameRecord where
  handle := s.frameHandle
  fcf := s.pf.fcf
  type := fcfType s.pf.fcf
  framePending := fcfFramePending s.pf.fcf
  ackRequest := fcfAckRequest s.pf.fcf
  seqPresent := s.pf.seqPresent
  seq := s.pf.seq
  dstMode := s.pf.dstMode
  srcMode := s.pf.srcMode
  dstPanPresent := s.pf.dstPanPresent
  dstPan := s.pf.dstPan
  dstAddr := s.pf.dstAddr
  srcPanPresent := s.pf.srcPanPresent
  srcPan := s.pf.srcPan
  srcAddr := s.pf.srcAddr
  secured := fcfSecurity s.pf.fcf
  secCtl := s.pf.secCtl
  frameCounter := s.pf.frameCounter
  keyIdMode := s.pf.keyIdMode
  keySource := s.pf.keySource
  keyIndex := s.pf.keyIndex
  micLen := s.pf.micLen
  mhrLen := s.pf.mhrLen
  ieLen := s.pf.ieLen
  payloadLen := s.pf.payloadLen
  mpdu := s.pf.buf
  rssi := s.pf.rssi
  lqi := s.pf.lqi
  timestamp := s.pf.timestamp
  enhAckSubmitted := s.pf.enhAckSubmitted

/-- The common end of a frame that is not discarded: release it, flush its entry, IDLE (R351, R354). -/
def State.finishFrame (s : State) : State :=
  { (s.releasePf).flushEntry s.curEntry with rxState := .idle }

/-- deliver() (R354). -/
def State.deliver (s : State) : State := (s.emit (.deliver s.frameRecord)).finishFrame

/-- ackConsume() (R351). -/
def State.ackConsume (s : State) : State :=
  if s.ackWait && s.pf.seqPresent && decide (s.pf.seq = s.ackWaitSeq) then
    { s.emit (.ackReceived s.pf.seq (fcfFramePending s.pf.fcf)) with ackWait := false }.finishFrame
  else s.discard .ackUnmatched

/-- ieWalk() over the frame's buffer: MPDU bytes [mhrLen, mpduLen - micLen) (R352). -/
def State.ieResult (s : State) : IeResult :=
  ieWalkBytes s.pf.buf s.pf.mhrLen.toNat (s.pf.mpduLen.toNat - s.pf.micLen.toNat) (fcfSecurity s.pf.fcf)

/-- The last part of the dispatch: the enhanced ACK if required, then the hand-over (R350). -/
def State.ackAndDeliver (s : State) : State :=
  (if s.enhAckRequired then s.submitEnhAck else s).deliver

/-- The dispatch of a frame that is no acknowledgment (R350, R352). -/
def State.dispatchFrame (s : State) : State :=
  if fcfIePresent s.pf.fcf then
    match s.ieResult with
    | .located len => { s with pf := { s.pf with ieLen := BitVec.ofNat 11 len } }.ackAndDeliver
    | .malformed => s.discard .ieMalformed
    | .zeroLen => s.discard .ieZeroLen
  else s.ackAndDeliver

/-- The partial frame with its trailer read (R350). -/
def State.trailerFrame (s : State) : PartialFrame :=
  let t0 := 2 + s.pf.mpduLen.toNat
  { s.pf with
    rssi := s.ringByte s.curEntry t0
    lqi := Config.lqiOf (s.ringByte s.curEntry t0)
    timestamp := BitVec.ofNat 32 (s.ringLe s.curEntry (t0 + 1) 4) }

/-- trailerAndDispatch() (R350). -/
def State.trailerAndDispatch (s : State) : State :=
  if s.rxCount s.curEntry < 2 + s.pf.mpduLen.toNat + 5 then s.discard .unexpectedEvent
  else
    let s1 := { s with pf := s.trailerFrame }
    if fcfType s1.pf.fcf = typeAck then s1.ackConsume else s1.dispatchFrame

/-- HALTED becomes IDLE at the frame's end event. -/
def State.haltedToIdle (s : State) : State := if s.rxState = .halted then { s with rxState := .idle } else s

/-- The end event of no started frame: count it, and flush the entry at rdIdx when it is FULL (R345,
R360). -/
def State.unexpectedEnd (s : State) : State :=
  let s1 := s.count .unexpectedEvent
  if s1.entryFull s1.rdIdx then s1.flushEntry s1.rdIdx else s1

/-- FRAME_OK in a mid-decode state (R345): the due stages, then the dispatch. -/
def State.endFrame (s : State) : State :=
  let s1 := s.runDueStages
  let s2 := if s1.rxState = .trailer then s1.trailerAndDispatch else s1
  s2.haltedToIdle

/-- FRAME_OK (R345). -/
def State.frameOkEvent (s : State) : State :=
  match s.rxState with
  | .idle => s.unexpectedEnd
  | .halted => s.haltedToIdle
  | .started => s.endFrame
  | .addr => s.endFrame
  | .secHdr => s.endFrame
  | .payload => s.endFrame
  | .trailer => s.endFrame

/-! ## Abnormal ends (R360 to R363) -/

/-- discard(reason), then IDLE: the frame's end event caused the discard. -/
def State.discardToIdle (s : State) (r : DiagReason) : State := { s.discard r with rxState := .idle }

/-- BAD_CRC (R360). -/
def State.badCrcEvent (s : State) : State :=
  if s.rxState.midDecode then s.discardToIdle .crcBad
  else if s.rxState = .idle then s.unexpectedEnd
  else s.haltedToIdle

/-- BUF_FULL (R361). -/
def State.bufFullEvent (s : State) : State :=
  if s.rxState.midDecode then s.discardToIdle .bufferFull
  else if s.rxState = .idle then s.count .bufferFull
  else s.haltedToIdle

/-- rxEnd() (R362). -/
def State.rxEnd (s : State) : State :=
  if s.rxState.midDecode then s.discardToIdle .aborted else { s with rxState := .idle }

/-- parserStop() (R363). -/
def State.parserStop (s : State) : State :=
  if s.rxState.midDecode then s.discardToIdle .aborted else { s with rxState := .idle }

end Sys2Proof.Machine
end

