-- ==== Sys2Proof/Machine/Timers.lean ====
section
/-!
DEFINITION. The backoff timers, the ack-wait timer and the timer-compare events (43_backoff_timers.md),
but for the retry engine, which submits and so stands in Machine/Retry.lean.
-/

namespace Sys2Proof.Machine

/-- boRequest(c, d) (R430): zero cancels, non-zero (re)arms; either drops an unconsumed expiry. -/
def State.boRequest (s : State) (c : OpClass) (d : Word) : State :=
  if d = 0 then
    { s with
      bo := s.bo.set c ⟨false, (s.bo.get c).delay⟩
      retryEvt := s.retryEvt.set c false }
  else
    { s with
      bo := s.bo.set c ⟨true, d⟩
      retryEvt := s.retryEvt.set c false }

/-- What a successful submission clears of its class (40_scheduler.md R234, R241, R246). -/
def State.clearBackoff (s : State) (c : OpClass) : State :=
  { s with
    bo := s.bo.set c ⟨false, (s.bo.get c).delay⟩
    retryEvt := s.retryEvt.set c false
    retryArgs := s.retryArgs.set c { s.retryArgs.get c with valid := false } }

/-- BACKOFF_REQ (R431). -/
def cmdBackoffReq (sel : BitVec 4) (s : State) : State :=
  s.guardCmd fun s =>
    match classOfSel sel with
    | none => s.result .invalidArg
    | some c => (s.boRequest c s.arg0).result .ok

/-- Meaning of BACKOFF_REQ. -/
def execBackoffReq (sel : BitVec 4) (s : State) : Host.Outcome State Fault Refusal :=
  .next (cmdBackoffReq sel s)

/-- BO_EXPIRE(c), the step of BOTIMER(c) when it is enabled (R432). -/
def State.boExpire (s : State) (c : OpClass) : State :=
  { s with
    bo := s.bo.set c ⟨false, (s.bo.get c).delay⟩
    retryEvt := s.retryEvt.set c true }.emit (.backoffExpired c)

/-- ACKWAIT_EXPIRE, the step of ACKTIMER when it is enabled (R441). -/
def State.ackWaitExpire (s : State) : State := { s with ackWait := false }.emit .ackNotReceived

/-- TC_FIRED for a channel, inside the guard of its word (R445). -/
def State.tcFired (s : State) (ch : TcChan) : State :=
  if (s.tc.get ch).armed then
    { s with tc := s.tc.set ch { s.tc.get ch with armed := false } }.emit
      (.timerCallback ch (s.tc.get ch).cb)
  else s.count .unexpectedEvent

end Sys2Proof.Machine
end

