-- ==== Sys2Proof/Machine/Scheduler.lean ====
section
/-!
DEFINITION. The radio-command scheduler: INIT, the submissions, STOP_ALL, the transmit power, the
timer-compare setup, and the terminal completion events (40_scheduler.md).
-/

namespace Sys2Proof.Machine

/-! ## INIT (R230) -/

/-- Every field of 10_state.md R34 to R55 at its INIT value (70_reset_and_hazards.md R541). The bytes of
the ring, which R541 leaves unspecified, stay as they are (log entry 16). -/
def State.initValues (s : State) : State :=
  { s with
    arg0 := 0
    arg1 := 0
    res := resWord .ok false
    cntTotal := 0
    cntRx := 0
    inflight := PerSlot.all false
    progChannel := 0
    progValid := false
    txPowerCur := 0
    txPowerCurValid := false
    txPowerPend := 0
    txPowerPendValid := false
    desc := PerSlot.all Desc.initial
    txAckReq := false
    txSeq := 0
    txDur := 0
    ackQueued := false
    ackWait := false
    ackWaitSeq := 0
    bo := PerClass.all ⟨false, 0⟩
    retryEvt := PerClass.all false
    retryArgs := PerClass.all ⟨false, 0, 0, 0, 0⟩
    tc := PerChan.all ⟨false, 0, 0⟩
    rxState := .idle
    frameHandle := 0
    curEntry := 0
    pf := PartialFrame.empty
    ring := List.replicate s.cfg.ringN ⟨.pending, 0⟩
    rdIdx := 0
    fPan := 0xFFFF
    fShort := 0xFFFF
    fExt := 0
    fAllow := 0x0F
    fPromisc := false
    fEnhAck := false
    fAckFP := false
    panCoord := false
    beaconEn := false
    dcBeacon := 0
    dcBucket := List.replicate s.cfg.nBuckets 0
    dcTotal := 0
    dcCur := 0
    dcMode := .normal
    dcRecorded := false
    diag := Vector.replicate 20 0 }

/-- emit DisableTC(ch) when the channel is armed. -/
def State.emitDisable (s : State) (ch : TcChan) : State :=
  if (s.tc.get ch).armed then s.emit (.disableTc ch) else s

/-- The part of INIT after the ring exists (R230). -/
def State.initialise (s : State) : State :=
  let s1 := if s.init then (s.emitDisable .a).emitDisable .b else s
  { s1.initValues with init := true }.result .ok

/-- INIT (R230). -/
def cmdInit (s : State) : State :=
  if s.fatal then s.result .fatal
  else if s.init && decide (0 < s.cntTotal.toNat) then s.result .busy
  else if s.ringAllocated then s.initialise
  else
    let (ok, s1) := s.drawRingAllocOk
    if ok then { s1 with ringAllocated := true }.initialise
    else { s1 with fatal := true, init := true }.result .fatal

/-! ## Submissions (R233 to R246) -/

/-- The channel an accepted submission has tuned to. -/
def State.setProgrammed (s : State) (ch : Half) : State := { s with progChannel := ch, progValid := true }

/-- Store the operands of a rejected submission. -/
def State.storeRetry (s : State) (c : OpClass) (a : RetryArgs) : State :=
  { s with retryArgs := s.retryArgs.set c a }

/-- doSubmitRx(ch) (R234). -/
def State.doSubmitRx (s : State) (ch : Half) : ResultCode × State :=
  let m := s.rxChain ch
  let (accept, s1) := (s.chainRx ch).submit .rx (m.headD .rx) none
  if accept then
    (.ok, ((s1.onAccepted .rx m).setProgrammed ch).clearBackoff .rx)
  else
    (.rejected, (s1.boRequest .rx s1.cfg.rxBoDelay).storeRetry .rx ⟨true, ch, 0, 0, 0⟩)

/-- Write RES with the outcome of a submission. -/
def submitResult (r : ResultCode × State) : State := r.2.result r.1

/-- SUBMIT_RX (R233). -/
def cmdSubmitRx (ch : Half) (s : State) : State :=
  s.guardCmd fun s =>
    if s.cfg.nChannels ≤ ch.toNat then s.result .invalidArg
    else if s.rxState.midDecode then s.result .busyDecode
    else if s.inflight.rx then s.result .busy
    else submitResult (s.doSubmitRx ch)

/-- The transmit context of an accepted SUBMIT_TX (R241, 10_state.md R43). -/
def State.setTxContext (s : State) (flg : BitVec 4) (a0 a1 : Word) : State :=
  { s with txAckReq := flg.getLsbD 0, txSeq := txSeqField a1, txDur := a0 }

/-- doSubmitTx(ch, flg, a0, a1) (R241). -/
def State.doSubmitTx (s : State) (ch : Half) (flg : BitVec 4) (a0 a1 : Word) : ResultCode × State :=
  if s.dcAllowed a0 then
    let m := s.txChain ch (flg.getLsbD 1)
    let (accept, s1) :=
      (s.chainTx ch (flg.getLsbD 1) (txBufField a1) (txLenField a1) a0).submit .tx (m.headD .tx) none
    if accept then
      (.ok, (((s1.onAccepted .tx m).setProgrammed ch).setTxContext flg a0 a1).clearBackoff .tx)
    else
      (.rejected, (s1.boRequest .tx s1.cfg.txBoDelay).storeRetry .tx ⟨true, ch, flg, a0, a1⟩)
  else (.dcBlocked, s)

/-- An operand of SUBMIT_TX is out of range (R240). -/
def State.txArgsBad (s : State) (ch : Half) : Bool :=
  decide (s.cfg.nChannels ≤ ch.toNat) || decide (txLenField s.arg1 = 0) ||
    decide (s.cfg.maxFrameSize < (txLenField s.arg1).toNat) || decide (txReservedField s.arg1 ≠ 0)

/-- SUBMIT_TX (R240). -/
def cmdSubmitTx (ch : Half) (ackReq cca : Bool) (s : State) : State :=
  s.guardCmd fun s =>
    if s.txArgsBad ch then s.result .invalidArg
    else if s.inflight.tx || s.ackWait then s.result .busy
    else submitResult (s.doSubmitTx ch (flgBits ackReq cca false) s.arg0 s.arg1)

/-- doSubmitNoop() (R246). -/
def State.doSubmitNoop (s : State) : ResultCode × State :=
  let (accept, s1) := s.chainNoop.submit .noop .noop none
  if accept then
    (.ok, (s1.onAccepted .noop [.noop]).clearBackoff .noop)
  else
    (.rejected, (s1.boRequest .noop s1.cfg.noopBoDelay).storeRetry .noop ⟨true, 0, 0, 0, 0⟩)

/-- SUBMIT_NOOP (R245). -/
def cmdSubmitNoop (s : State) : State :=
  s.guardCmd fun s => if s.inflight.noop then s.result .busy else submitResult s.doSubmitNoop

/-! ## Stop, transmit power, timer compare (R248 to R253) -/

/-- S.desc[CCA].next <- NONE (R248). -/
def State.unlinkCca (s : State) : State :=
  { s with desc := { s.desc with cca := { s.desc.cca with next := none } } }

/-- STOP_ALL (R248). -/
def cmdStopAll (graceful : Bool) (s : State) : State :=
  s.guardCmd fun s => ((s.unlinkCca.emit (.flushAll graceful)).parserStop).result .ok

/-- Neither an outgoing acknowledgment nor a physical transmission is in progress (R250). -/
def State.txQuiet (s : State) : Bool := !s.inflight.tx && !s.inflight.ack

/-- Send a power value to the radio: SetTxPower(v), and v is the current power (R250, R251). -/
def State.applyPower (s : State) (v : Half) : State :=
  { s.emit (.setTxPower v) with txPowerCur := v, txPowerCurValid := true, txPowerPendValid := false }

/-- UPDATE_TX_POWER (R250). -/
def cmdUpdateTxPower (v : Half) (s : State) : State :=
  s.guardCmd fun s =>
    if s.txQuiet then (s.applyPower v).result .ok
    else { s with txPowerPend := v, txPowerPendValid := true }.result .deferred

/-- applyPendingPower() (R251). -/
def State.applyPendingPower (s : State) : State :=
  if s.txPowerPendValid && s.txQuiet then s.applyPower s.txPowerPend else s

/-- Disable an armed timer-compare channel before it is armed again (R253). -/
def State.disarm (s : State) (ch : TcChan) : State :=
  if (s.tc.get ch).armed then
    { s.emit (.disableTc ch) with tc := s.tc.set ch { s.tc.get ch with armed := false } }
  else s

/-- Arm a channel at an absolute deadline (R253). -/
def State.armTc (s : State) (ch : TcChan) (cb : Half) (dl : Word) : State :=
  { s.build ch.slot .absTime none .never (halfParam cb) dl dl with
    tc := s.tc.set ch ⟨true, cb, dl⟩ }.emit (.armTc ch cb dl)

/-- SETUP_TC (R253). -/
def cmdSetupTc (ch : TcChan) (cb : Half) (s : State) : State :=
  s.guardCmd fun s =>
    let (ratNow, s1) := (s.disarm ch).drawRatNow
    (s1.armTc ch cb (ratNow + s.arg0)).result .ok

/-! ## Terminal completion events (R260 to R267) -/

/-- chainSlots(p) (R260). -/
def chainSlots : Slot → List Slot
  | .rx => [.fsRx, .rx]
  | .tx => [.fsTx, .cca, .tx]
  | .ack => [.ack]
  | .noop => [.noop]
  | _ => []

/-- The members of p's chain that are in flight, in chain order (R260). -/
def State.inflightChain (s : State) (p : Slot) : List Slot :=
  (chainSlots p).filter fun x => s.inflight.get x

/-- Write statuses into descriptors, one for each slot of a list (R262). -/
def PerSlot.setStatuses (m : PerSlot Desc) : List Slot → List CmdStatus → PerSlot Desc
  | x :: xs, v :: vs => (m.set x { m.get x with status := v }).setStatuses xs vs
  | _, _ => m

/-- memberStatuses(p, m, kind) (R262). -/
def State.memberStatuses (s : State) (m : List Slot) (kind : EndKind) : State :=
  let (d, s1) := s.drawMembers
  { s1 with desc := s1.desc.setStatuses m (chainStatuses m.length kind d) }

/-- The chain is no longer in flight, and the counters lose it (R260). -/
def State.retire (s : State) (p : Slot) (m : List Slot) : State :=
  let s1 := { s with
    inflight := s.inflight.setAll false m
    cntTotal := s.cntTotal - 1
    cntRx := if p = .rx then s.cntRx - 1 else s.cntRx }
  if s1.cntTotal = 0 then s1.emit (.powerVote .allow) else s1

/-- txEnd(kind) (R265). -/
def State.txEnd (s : State) (kind : EndKind) : State :=
  let s1 :=
    if kind = .done ∧ s.desc.tx.status = .done then
      let s2 := s.dcRecordInternal s.txDur
      if s2.txAckReq then { s2 with ackWait := true, ackWaitSeq := s2.txSeq } else s2
    else s
  s1.applyPendingPower

/-- ackEnd(kind) (R267). -/
def State.ackEnd (s : State) (kind : EndKind) : State :=
  let s1 := { s with ackQueued := false }
  let s2 :=
    if kind = .done ∧ s1.desc.ack.status = .done ∧ 0 < s1.cfg.ackAirtime.toNat then
      s1.dcRecordInternal s1.cfg.ackAirtime
    else s1
  s2.applyPendingPower

/-- The principal's own end (R260). -/
def State.principalEnd (s : State) (p : Slot) (kind : EndKind) : State :=
  match p with
  | .rx => s.rxEnd
  | .tx => s.txEnd kind
  | .ack => s.ackEnd kind
  | _ => s

/-- terminal(h, kind) (R260). -/
def State.terminal (s : State) (p : Slot) (kind : EndKind) : State :=
  if s.inflight.get p then
    let m := s.inflightChain p
    (((s.memberStatuses m kind).retire p m)).principalEnd p kind
  else s.count .unexpectedEvent

/-- CMD_DONE for a principal, inside the guard of its word (R261). -/
def State.cmdDoneEvent (s : State) (p : Slot) : State := s.terminal p .done

/-- CMD_STOPPED for a principal (R263). -/
def State.cmdStoppedEvent (s : State) (p : Slot) : State := s.terminal p .stopped

/-- CMD_PREEMPTED for a principal (R264). -/
def State.cmdPreemptedEvent (s : State) (p : Slot) : State := s.terminal p .preempted

/-! ## Meanings -/

/-- Meaning of INIT. -/
def execInit (s : State) : Host.Outcome State Fault Refusal := .next (cmdInit s)

/-- Meaning of SUBMIT_RX. -/
def execSubmitRx (ch : Half) (s : State) : Host.Outcome State Fault Refusal := .next (cmdSubmitRx ch s)

/-- Meaning of SUBMIT_TX. -/
def execSubmitTx (ch : Half) (ackReq cca : Bool) (s : State) : Host.Outcome State Fault Refusal :=
  .next (cmdSubmitTx ch ackReq cca s)

/-- Meaning of SUBMIT_NOOP. -/
def execSubmitNoop (s : State) : Host.Outcome State Fault Refusal := .next (cmdSubmitNoop s)

/-- Meaning of STOP_ALL. -/
def execStopAll (graceful : Bool) (s : State) : Host.Outcome State Fault Refusal :=
  .next (cmdStopAll graceful s)

/-- Meaning of UPDATE_TX_POWER. -/
def execUpdateTxPower (v : Half) (s : State) : Host.Outcome State Fault Refusal :=
  .next (cmdUpdateTxPower v s)

/-- Meaning of SETUP_TC. -/
def execSetupTc (ch : TcChan) (cb : Half) (s : State) : Host.Outcome State Fault Refusal :=
  .next (cmdSetupTc ch cb s)

end Sys2Proof.Machine
end

