-- ==== Sys2Proof/Machine/Events.lean ====
section
/-!
DEFINITION. Delivery of an event word (30_encoding.md R160, R161) and the meanings of the event
instructions. A word is one atomic step: its bits run in ascending order, each seeing the state the
lower ones left.
-/

namespace Sys2Proof.Machine

/-- TC_FIRED by slot; only TC_A and TC_B have the bit in their mask (R189). -/
def State.tcFiredSlot (s : State) (h : Slot) : State :=
  match h with
  | .tcA => s.tcFired .a
  | .tcB => s.tcFired .b
  | _ => s.count .unexpectedEvent

/-- The rule of event bit 8 + b for a slot whose mask holds it (R160). -/
def State.bitRule (s : State) (h : Slot) (b : Nat) : State :=
  match b with
  | 0 => s.preambleEvent
  | 1 => s.frameOkEvent
  | 2 => s.badCrcEvent
  | 3 => s.bufFullEvent
  | 4 => s.cmdDoneEvent h
  | 5 => s.cmdStoppedEvent h
  | 6 => s.cmdPreemptedEvent h
  | _ => s.tcFiredSlot h

/-- One set event bit: outside the handle's mask it is counted, else its rule runs (R161). -/
def State.eventBit (s : State) (h : Slot) (b : Nat) : State :=
  if h.eventMask.getLsbD b then s.bitRule h b else s.count .unexpectedEvent

/-- The set bits of a word, in ascending order (R161). -/
def State.eventBits (s : State) (h : Slot) (bits : Byte) : State :=
  [0, 1, 2, 3, 4, 5, 6, 7].foldl (fun s b => if bits.getLsbD b then s.eventBit h b else s) s

/-- Delivery of an event word with handle `h` and event bits `bits`, not all 0, reserved bits 0 (R161). -/
def State.deliverEvent (s : State) (h bits : Byte) : State :=
  s.guardEvt fun s =>
    match slotOfNum h.toNat with
    | none => s.count .unexpectedEvent
    | some slot => s.eventBits slot bits

/-- Delivery of a word that is no event instruction: reserved bits set, or no event bit (R161). -/
def State.badEventWord (s : State) : State := s.guardEvt fun s => s.count .unexpectedEvent

/-- Meaning of an event word whose lowest bit is PREAMBLE. -/
def execEvtPreamble (h : Byte) (later : BitVec 7) (s : State) : Host.Outcome State Fault Refusal :=
  .next (s.deliverEvent h (Instr.evtPreamble h later).eventBits)

/-- Meaning of an event word whose lowest bit is FRAME_OK. -/
def execEvtFrameOk (h : Byte) (later : BitVec 6) (s : State) : Host.Outcome State Fault Refusal :=
  .next (s.deliverEvent h (Instr.evtFrameOk h later).eventBits)

/-- Meaning of an event word whose lowest bit is BAD_CRC. -/
def execEvtBadCrc (h : Byte) (later : BitVec 5) (s : State) : Host.Outcome State Fault Refusal :=
  .next (s.deliverEvent h (Instr.evtBadCrc h later).eventBits)

/-- Meaning of an event word whose lowest bit is BUF_FULL. -/
def execEvtBufFull (h : Byte) (later : BitVec 4) (s : State) : Host.Outcome State Fault Refusal :=
  .next (s.deliverEvent h (Instr.evtBufFull h later).eventBits)

/-- Meaning of an event word whose lowest bit is CMD_DONE. -/
def execEvtCmdDone (h : Byte) (later : BitVec 3) (s : State) : Host.Outcome State Fault Refusal :=
  .next (s.deliverEvent h (Instr.evtCmdDone h later).eventBits)

/-- Meaning of an event word whose lowest bit is CMD_STOPPED. -/
def execEvtCmdStopped (h : Byte) (later : BitVec 2) (s : State) : Host.Outcome State Fault Refusal :=
  .next (s.deliverEvent h (Instr.evtCmdStopped h later).eventBits)

/-- Meaning of an event word whose lowest bit is CMD_PREEMPTED. -/
def execEvtCmdPreempted (h : Byte) (later : BitVec 1) (s : State) : Host.Outcome State Fault Refusal :=
  .next (s.deliverEvent h (Instr.evtCmdPreempted h later).eventBits)

/-- Meaning of an event word whose only bit is TC_FIRED. -/
def execEvtTcFired (h : Byte) (s : State) : Host.Outcome State Fault Refusal :=
  .next (s.deliverEvent h (Instr.evtTcFired h).eventBits)

end Sys2Proof.Machine
end

