-- ==== Sys2Proof/Machine/Filter.lean ====
section
/-!
DEFINITION. The frame-filter configuration commands (44_filter_config.md).
-/

namespace Sys2Proof.Machine

/-- SET_PAN (R470). -/
def cmdSetPan (pan : Half) (s : State) : State := s.guardCmd fun s => { s with fPan := pan }.result .ok

/-- SET_SHORT (R471). -/
def cmdSetShort (addr : Half) (s : State) : State := s.guardCmd fun s => { s with fShort := addr }.result .ok

/-- SET_EXT (R472). -/
def cmdSetExt (s : State) : State :=
  s.guardCmd fun s => { s with fExt := extOfArgs s.arg0 s.arg1 }.result .ok

/-- SET_FILTER_MODE (R473). -/
def cmdSetFilterMode (allow : Byte) (promisc enhAck ackFp : Bool) (s : State) : State :=
  s.guardCmd fun s =>
    { s with fAllow := allow, fPromisc := promisc, fEnhAck := enhAck, fAckFP := ackFp }.result .ok

/-- Meaning of SET_PAN. -/
def execSetPan (pan : Half) (s : State) : Host.Outcome State Fault Refusal := .next (cmdSetPan pan s)

/-- Meaning of SET_SHORT. -/
def execSetShort (addr : Half) (s : State) : Host.Outcome State Fault Refusal := .next (cmdSetShort addr s)

/-- Meaning of SET_EXT. -/
def execSetExt (s : State) : Host.Outcome State Fault Refusal := .next (cmdSetExt s)

/-- Meaning of SET_FILTER_MODE. -/
def execSetFilterMode (allow : Byte) (promisc enhAck ackFp : Bool) (s : State) :
    Host.Outcome State Fault Refusal :=
  .next (cmdSetFilterMode allow promisc enhAck ackFp s)

end Sys2Proof.Machine
end

