-- ==== Sys2Proof/Machine/Pseudo.lean ====
section
/-!
DEFINITION. The pseudo-instructions (30_encoding.md R200, R201). A pseudo-instruction has no word of its
own: its line expands to register writes, ARG writes first and then CMD. Its meaning here is that
expansion, its writes one after the other with no other agent's step between them (log entry 12);
`pseudoMoves` is the same expansion as moves of the schedule.
-/

namespace Sys2Proof.Machine

/-- A host write of ARG0 (20_memory.md R105). -/
def State.writeArg0 (s : State) (v : Word) : State := { s with arg0 := v }

/-- A host write of ARG1 (R105). -/
def State.writeArg1 (s : State) (v : Word) : State := { s with arg1 := v }

/-- The low word of an extended address (R200). -/
def extLow (e : DWord) : Word := e.extractLsb' 0 32

/-- The high word of an extended address (R200). -/
def extHigh (e : DWord) : Word := e.extractLsb' 32 32

/-- Meaning of BACKOFF_CANCEL c: ARG0 <- 0, then BACKOFF_REQ c. -/
def execBackoffCancel (sel : BitVec 4) (s : State) : Host.Outcome State Fault Refusal :=
  .next (cmdBackoffReq sel (s.writeArg0 0))

/-- Meaning of STOP_NOW: STOP_ALL with graceful = 0. -/
def execStopNow (s : State) : Host.Outcome State Fault Refusal := .next (cmdStopAll false s)

/-- Meaning of STOP_GRACEFUL: STOP_ALL GRACEFUL. -/
def execStopGraceful (s : State) : Host.Outcome State Fault Refusal := .next (cmdStopAll true s)

/-- Meaning of TC_REARM ch, cb, delta: ARG0 <- delta, then SETUP_TC ch, cb. -/
def execTcRearm (ch : TcChan) (cb : Half) (delta : Word) (s : State) : Host.Outcome State Fault Refusal :=
  .next (cmdSetupTc ch cb (s.writeArg0 delta))

/-- Meaning of SET_ADDR p, a, e: SET_PAN p; SET_SHORT a; ARG0, ARG1 <- e; SET_EXT. -/
def execSetAddr (pan addr : Half) (ext : DWord) (s : State) : Host.Outcome State Fault Refusal :=
  .next (cmdSetExt (((cmdSetShort addr (cmdSetPan pan s)).writeArg0 (extLow ext)).writeArg1 (extHigh ext)))

/-- Meaning of PROMISC_ON: SET_FILTER_MODE 0xFF, PROMISC. -/
def execPromiscOn (s : State) : Host.Outcome State Fault Refusal :=
  .next (cmdSetFilterMode 0xFF true false false s)

end Sys2Proof.Machine
end

