-- ==== Sys2Proof/Machine/Dispatch.lean ====
section
/-!
DEFINITION. The dispatch of an instruction to its meaning, one arm per constructor of Instr.
-/

namespace Sys2Proof.Machine

def exec (i : Instr) (s : State) : Host.Outcome State Fault Refusal :=
  match i with
  | .init => Sys2Proof.Machine.execInit s
  | .submitRx channel => Sys2Proof.Machine.execSubmitRx channel s
  | .submitTx channel ackReq cca => Sys2Proof.Machine.execSubmitTx channel ackReq cca s
  | .submitNoop => Sys2Proof.Machine.execSubmitNoop s
  | .stopAll graceful => Sys2Proof.Machine.execStopAll graceful s
  | .updateTxPower value => Sys2Proof.Machine.execUpdateTxPower value s
  | .setupTc chan callback => Sys2Proof.Machine.execSetupTc chan callback s
  | .dcRecord => Sys2Proof.Machine.execDcRecord s
  | .dcCheck => Sys2Proof.Machine.execDcCheck s
  | .dcAdvance => Sys2Proof.Machine.execDcAdvance s
  | .setRole panCoord beaconEn => Sys2Proof.Machine.execSetRole panCoord beaconEn s
  | .backoffReq sel => Sys2Proof.Machine.execBackoffReq sel s
  | .setPan pan => Sys2Proof.Machine.execSetPan pan s
  | .setShort addr => Sys2Proof.Machine.execSetShort addr s
  | .setExt => Sys2Proof.Machine.execSetExt s
  | .setFilterMode allow promisc enhAck ackFp => Sys2Proof.Machine.execSetFilterMode allow promisc enhAck ackFp s
  | .evtPreamble handle later => Sys2Proof.Machine.execEvtPreamble handle later s
  | .evtFrameOk handle later => Sys2Proof.Machine.execEvtFrameOk handle later s
  | .evtBadCrc handle later => Sys2Proof.Machine.execEvtBadCrc handle later s
  | .evtBufFull handle later => Sys2Proof.Machine.execEvtBufFull handle later s
  | .evtCmdDone handle later => Sys2Proof.Machine.execEvtCmdDone handle later s
  | .evtCmdStopped handle later => Sys2Proof.Machine.execEvtCmdStopped handle later s
  | .evtCmdPreempted handle later => Sys2Proof.Machine.execEvtCmdPreempted handle later s
  | .evtTcFired handle => Sys2Proof.Machine.execEvtTcFired handle s
  | .backoffCancel sel => Sys2Proof.Machine.execBackoffCancel sel s
  | .stopNow => Sys2Proof.Machine.execStopNow s
  | .stopGraceful => Sys2Proof.Machine.execStopGraceful s
  | .tcRearm chan callback delta => Sys2Proof.Machine.execTcRearm chan callback delta s
  | .setAddr pan addr ext => Sys2Proof.Machine.execSetAddr pan addr ext s
  | .promiscOn => Sys2Proof.Machine.execPromiscOn s

end Sys2Proof.Machine
end

