-- ==== Sys2Proof/Machine/Registers.lean ====
section
/-!
DEFINITION. The REG register map (20_memory.md R102 to R107): what a host read of each listed offset
returns, and which accesses have no step.
-/

namespace Sys2Proof.Machine

/-- BACKOFF: bits 2:0 running, 6:4 retryEvt, 10:8 retryArgs valid, class RX lowest (R106). -/
def State.regBackoff (s : State) : Word :=
  (0 : BitVec 21) ++
    BitVec.ofBool s.retryArgs.noop.valid ++ BitVec.ofBool s.retryArgs.tx.valid ++
    BitVec.ofBool s.retryArgs.rx.valid ++ (0 : BitVec 1) ++
    BitVec.ofBool s.retryEvt.noop ++ BitVec.ofBool s.retryEvt.tx ++ BitVec.ofBool s.retryEvt.rx ++
    (0 : BitVec 1) ++
    BitVec.ofBool s.bo.noop.running ++ BitVec.ofBool s.bo.tx.running ++ BitVec.ofBool s.bo.rx.running

/-- SLOTS: bits 9:0 inflight[9:0] (R106). -/
def State.regSlots (s : State) : Word :=
  (0 : BitVec 22) ++
    BitVec.ofBool s.inflight.tcB ++ BitVec.ofBool s.inflight.tcA ++ BitVec.ofBool s.inflight.noop ++
    BitVec.ofBool s.inflight.ack ++ BitVec.ofBool s.inflight.tx ++ BitVec.ofBool s.inflight.cca ++
    BitVec.ofBool s.inflight.fsTx ++ BitVec.ofBool s.inflight.rx ++ BitVec.ofBool s.inflight.fsRx ++
    BitVec.ofBool s.inflight.setup

/-- STATUS: 0 init, 1 fatal, 2 PD_VOTE, 3 faulted (R106). -/
def State.regStatus (s : State) : Word :=
  (0 : BitVec 28) ++ BitVec.ofBool s.faulted ++ BitVec.ofBool s.pdVote ++ BitVec.ofBool s.fatal ++
    BitVec.ofBool s.init

/-- COUNTERS: 7:0 cntTotal, 15:8 cntRx (R106). -/
def State.regCounters (s : State) : Word := (0 : Half) ++ s.cntRx ++ s.cntTotal

/-- CHANNEL, TXPOWER and TXPOWER_PEND: a 16-bit value and its valid bit (R106). -/
def regValidHalf (valid : Bool) (v : Half) : Word := (0 : BitVec 15) ++ BitVec.ofBool valid ++ v

/-- TXCTX: 7:0 txSeq, 8 txAckReq, 23:16 ackWaitSeq, 24 ackWait, 25 ackQueued (R106). -/
def State.regTxCtx (s : State) : Word :=
  (0 : BitVec 6) ++ BitVec.ofBool s.ackQueued ++ BitVec.ofBool s.ackWait ++ s.ackWaitSeq ++
    (0 : BitVec 7) ++ BitVec.ofBool s.txAckReq ++ s.txSeq

/-- TC_x_CTL: 0 armed, 31:16 cb (R106). -/
def regTcCtl (c : TcState) : Word := c.cb ++ (0 : BitVec 15) ++ BitVec.ofBool c.armed

/-- RXFSM: 2:0 rxState, 15:8 frameHandle, 19:16 curEntry, 27:24 rdIdx (R106). -/
def State.regRxFsm (s : State) : Word :=
  (0 : BitVec 4) ++ s.rdIdx ++ (0 : BitVec 4) ++ s.curEntry ++ s.frameHandle ++ (0 : BitVec 5) ++
    s.rxState.bits

/-- FILTER_MODE: 7:0 fAllow, 8 fPromisc, 9 fEnhAck, 10 fAckFP (R106). -/
def State.regFilterMode (s : State) : Word :=
  (0 : BitVec 21) ++ BitVec.ofBool s.fAckFP ++ BitVec.ofBool s.fEnhAck ++ BitVec.ofBool s.fPromisc ++
    s.fAllow

/-- DC_STATE: 1:0 dcMode, 2 dcRecorded, 13:8 dcCur (R106). -/
def State.regDcState (s : State) : Word :=
  (0 : BitVec 18) ++ s.dcCur ++ (0 : BitVec 5) ++ BitVec.ofBool s.dcRecorded ++
    BitVec.ofNat 2 s.dcMode.num

/-- DESC_CTL: 3:0 kind, 5:4 status, 7:6 trigger, 11:8 next, 13:12 cond, with the status bits given
(R106, R186). -/
def regDescCtl (slot : Slot) (d : Desc) (status : BitVec 2) : Word :=
  (0 : BitVec 18) ++ d.cond.bits ++ nextBits d.next ++ d.trigger.bits ++ status ++ slot.kind

/-- RING_CTL: 1:0 status, 27:16 rxCount (R106). -/
def regRingCtl (e : RingEntry) : Word := (0 : BitVec 4) ++ e.rxCount ++ (0 : BitVec 14) ++ e.status.bits

/-- The registers of R106 that stand at one offset each, from 0x000 to 0x07C. -/
def State.regFixed (s : State) (off : Nat) : Option Word :=
  match off with
  | 0x000 => some 0
  | 0x004 => some s.arg0
  | 0x008 => some s.arg1
  | 0x00C => some s.res
  | 0x010 => some s.regStatus
  | 0x014 => some s.regCounters
  | 0x018 => some s.regSlots
  | 0x01C => some s.regBackoff
  | 0x020 => some s.bo.rx.delay
  | 0x024 => some s.bo.tx.delay
  | 0x028 => some s.bo.noop.delay
  | 0x02C => some (regValidHalf s.progValid s.progChannel)
  | 0x030 => some (regValidHalf s.txPowerCurValid s.txPowerCur)
  | 0x034 => some (regValidHalf s.txPowerPendValid s.txPowerPend)
  | 0x038 => some s.regTxCtx
  | 0x03C => some s.txDur
  | 0x040 => some (regTcCtl s.tc.a)
  | 0x044 => some s.tc.a.deadline
  | 0x048 => some (regTcCtl s.tc.b)
  | 0x04C => some s.tc.b.deadline
  | 0x050 => some s.regRxFsm
  | 0x054 => some (s.fShort ++ s.fPan)
  | 0x058 => some (s.fExt.extractLsb' 0 32)
  | 0x05C => some (s.fExt.extractLsb' 32 32)
  | 0x060 => some s.regFilterMode
  | 0x064 => some ((0 : BitVec 30) ++ BitVec.ofBool s.beaconEn ++ BitVec.ofBool s.panCoord)
  | 0x068 => some s.dcBeacon
  | 0x06C => some s.dcTotal
  | 0x070 => some s.regDcState
  | 0x074 => some s.cfg.tLimited
  | 0x078 => some s.cfg.tCritical
  | 0x07C => some s.cfg.tRegulated
  | _ => none

/-- The registers of R106 that repeat: DIAG[r], DC_BUCKET[i], DESC_x[s] and RING_CTL[k], at an offset
that is a multiple of 4. The descriptor status bits are given (R42, R555). -/
def State.regRepeated (s : State) (off : Nat) (status : BitVec 2) : Option Word :=
  if 0x080 ≤ off ∧ off < 0x080 + 4 * 20 then
    some ((s.diag.toList.getD ((off - 0x080) / 4) 0).setWidth 32)
  else if 0x100 ≤ off ∧ off < 0x100 + 4 * s.cfg.nBuckets then some (s.bucket ((off - 0x100) / 4))
  else if 0x200 ≤ off ∧ off < 0x200 + 0x10 * 10 then
    match slotOfNum ((off - 0x200) / 16), (off % 16) / 4 with
    | some slot, 0 => some (regDescCtl slot (s.desc.get slot) status)
    | some slot, 1 => some (s.desc.get slot).startTime
    | some slot, 2 => some (s.desc.get slot).param0
    | some slot, _ => some (s.desc.get slot).param1
    | none, _ => none
  else if 0x300 ≤ off ∧ off < 0x300 + 4 * s.cfg.ringN then
    some (regRingCtl (s.entry (BitVec.ofNat 4 ((off - 0x300) / 4))))
  else none

/-- The value of the register at an offset, the status bits of a descriptor given; none where R106 lists
no register. -/
def State.regValue (s : State) (off : Nat) (status : BitVec 2) : Option Word :=
  if off % 4 ≠ 0 then none
  else if off < 0x080 then s.regFixed off
  else s.regRepeated off status

/-- The offset is one R106 lists. -/
def State.regListed (s : State) (off : Nat) : Bool := (s.regValue off 0).isSome

/-- The slot whose DESC_CTL stands at an offset. -/
def descCtlSlot (off : Nat) : Option Slot :=
  if 0x200 ≤ off ∧ off % 16 = 0 then slotOfNum ((off - 0x200) / 16) else none

/-- The status bits a host reads at an offset: those of the descriptor there, but any value while its
slot is in flight (R42, 93_implementation_defined.md U3). -/
def State.readStatusBits (s : State) (off : Nat) : BitVec 2 × State :=
  match descCtlSlot off with
  | some slot => if s.inflight.get slot then s.drawStatusBits else ((s.desc.get slot).status.bits, s)
  | none => (0, s)

/-- A register whose value the spec leaves unspecified: every one but STATUS before INIT (R106, R540;
U1), and after a failed INIT every one that reads a field nothing has written since power-on (R541):
all but CMD, ARG0, ARG1, RES, STATUS and the three thresholds (log entries 2 and 3). -/
def State.readUnspecified (s : State) (off : Nat) : Bool :=
  (!s.init && decide (off ≠ 0x010)) ||
    (s.fatal && !decide (off ∈ [0x000, 0x004, 0x008, 0x00C, 0x010, 0x074, 0x078, 0x07C]))

/-- A host read of a listed register: the value goes to `busData`, nothing else of the machine changes
(R105). -/
def State.readReg (s : State) (off : Nat) : State :=
  if s.readUnspecified off then
    let (v, s1) := s.drawUnspecified
    { s1 with busData := v }
  else
    let (st, s1) := s.readStatusBits off
    { s1 with busData := (s.regValue off st).getD 0 }

/-- A host read (R103): 32 bits wide, at a listed offset; any other access has no step. -/
def State.hostRead (s : State) (width : Nat) (off : BitVec 12) : Host.Outcome State Fault Refusal :=
  if width = 4 ∧ s.regListed off.toNat then .next (s.readReg off.toNat) else .fault .registerAccess

end Sys2Proof.Machine
end

