-- ==== Sys2Proof/Machine/Retry.lean ====
section
/-!
DEFINITION. The retry engine (43_backoff_timers.md R435, R436): the scheduler consuming a backoff expiry.
-/

namespace Sys2Proof.Machine

/-- The refusal checks of the class's command, then the shared submission path (R435). -/
def State.retrySubmit (s : State) (c : OpClass) (a : RetryArgs) : ResultCode × State :=
  match c with
  | .rx =>
    if s.rxState.midDecode then (.busyDecode, s)
    else if s.inflight.rx then (.busy, s)
    else s.doSubmitRx a.channel
  | .tx =>
    if s.inflight.tx || s.ackWait then (.busy, s)
    else s.doSubmitTx a.channel a.flg a.arg0 a.arg1
  | .noop => if s.inflight.noop then (.busy, s) else s.doSubmitNoop

/-- The stored submission of a class is dropped (R436). -/
def State.dropRetry (s : State) (c : OpClass) : State :=
  { s with retryArgs := s.retryArgs.set c { s.retryArgs.get c with valid := false } }.count .retryDropped

/-- retryOutcome(c, out) (R436). No RES is written. -/
def State.retryOutcome (s : State) (c : OpClass) (out : ResultCode) : State :=
  match out with
  | .ok => s
  | .rejected => s
  | .busy => s.dropRetry c
  | .busyDecode => s.dropRetry c
  | .dcBlocked => s.dropRetry c
  | .invalidArg => s.dropRetry c
  | .deferred => s
  | .illegalOp => s
  | .fatal => s

/-- RETRY(c) when it is enabled (R435). -/
def State.retryStep (s : State) (c : OpClass) : State :=
  let s1 := { s with retryEvt := s.retryEvt.set c false }
  if (s1.retryArgs.get c).valid then
    let (out, s2) := s1.retrySubmit c (s1.retryArgs.get c)
    s2.retryOutcome c out
  else s1

end Sys2Proof.Machine
end

