-- ==== Sys2Proof/Machine/Agents.lean ====
section
/-!
DEFINITION. The agents' moves (00_scope.md R8): host register accesses, event words, the radio's ring
writes, and the internal agents' steps. Each move is one atomic step (R120).
-/

namespace Sys2Proof.Machine

/-! ## HOST -/

/-- A CMD word that decodes to no instruction (30_encoding.md R155): UNINIT first, then ILLEGAL_OP. -/
def State.illegalCmd (s : State) (w : Word) : State :=
  if s.init = false ∧ opcField w ≠ 0x01 then s.raiseFault .uninit else s.result .illegalOp

/-- A write of CMD: the command runs (R151, R155). -/
def cmdWrite (w : Word) (s : State) : Host.Outcome State Fault Refusal :=
  match decodeCmd w with
  | .ok i => exec i s
  | .error _ => .next (s.illegalCmd w)

/-- A host write of a listed register (20_memory.md R105). -/
def writeReg (off : Nat) (v : Word) (s : State) : Host.Outcome State Fault Refusal :=
  if off = 0x000 then cmdWrite v s
  else if off = 0x004 then .next (s.writeArg0 v)
  else if off = 0x008 then .next (s.writeArg1 v)
  else .next s

/-- A host write (R103): 32 bits wide, at a listed offset; any other access has no step. -/
def State.hostWrite (s : State) (width : Nat) (off : BitVec 12) (v : Word) :
    Host.Outcome State Fault Refusal :=
  if width = 4 ∧ s.regListed off.toNat then writeReg off.toNat v s else .fault .registerAccess

/-! ## RADIO -/

/-- Delivery of an event word (30_encoding.md R161). -/
def eventWord (w : Word) (s : State) : Host.Outcome State Fault Refusal :=
  match decodeEvt w with
  | .ok i => exec i s
  | .error _ => .next s.badEventWord

/-- Entry k is at the radio's write position (20_memory.md R112, R115; 60_exceptions.md R498 duties 3 and 4;
93_implementation_defined.md U8). While the entry it last wrote is ACTIVE it goes on there. Once that entry is
FULL, or flushed mid-frame, it writes no more of that frame and takes the next entry, and no other. Before its
first write it may take any (DEDUCED, safe: log entry 17). -/
def State.atWritePosition (s : State) (k : BitVec 4) : Bool :=
  match s.radioLast with
  | none => true
  | some l =>
    if (s.entry l).status = .active then decide (k = l)
    else decide (k.toNat = (l.toNat + 1) % s.cfg.ringN)

/-- The radio may write these bytes into entry k: the entry exists, is at the write position and is PENDING or
ACTIVE, at least one byte is written, they fit the entry and the 12-bit rxCount, and RX is in flight
(20_memory.md R113, 60_exceptions.md R498 duties 2 to 4). -/
def State.ringWriteOk (s : State) (k : BitVec 4) (bytes : List Byte) : Bool :=
  decide (k.toNat < s.cfg.ringN) && s.atWritePosition k && !s.entryFull k && decide (1 ≤ bytes.length) &&
    decide (s.rxCount k + bytes.length ≤ s.cfg.entrySize) &&
    decide (s.rxCount k + bytes.length < 4096) && s.inflight.rx

/-- RADIO_RX_WRITE (R113). -/
def State.ringWrite (s : State) (k : BitVec 4) (bytes : List Byte) (done : Bool) : State :=
  { s with
    ringData := s.ringData.writeList (ringAddr k (s.rxCount k)) bytes
    radioLast := some k }.setEntry k
    ⟨if done then .full else .active, BitVec.ofNat 12 (s.rxCount k + bytes.length)⟩

/-- A scheduled ring write; one that breaks a duty is no move of the radio. -/
def State.radioWrite (s : State) (k : BitVec 4) (bytes : List Byte) (done : Bool) :
    Host.Outcome State Fault Refusal :=
  if s.ringWriteOk k bytes then .next (s.ringWrite k bytes done) else .refused .radioDuty

/-! ## Internal agents -/

/-- The step of an internal agent that is enabled. -/
def State.agentStep (s : State) (a : Agent) : State :=
  match a with
  | .parser => s.stageStep
  | .boTimer c => s.boExpire c
  | .retry c => s.retryStep c
  | .ackTimer => s.ackWaitExpire

/-- A scheduled step of an internal agent. -/
def State.scheduledAgent (s : State) (a : Agent) : Host.Outcome State Fault Refusal :=
  if s.enabled a then .next (s.agentStep a) else .refused .agentNotEnabled

/-- The internal agents in a fixed order. -/
def allAgents : List Agent :=
  [.parser, .boTimer .rx, .boTimer .tx, .boTimer .noop, .retry .rx, .retry .tx, .retry .noop, .ackTimer]

/-- Nothing is scheduled: an enabled internal agent, if there is one, takes a step; which one is a free
value. With none enabled the machine waits and nothing changes (R8; log entry 8). -/
def State.idleStep (s : State) : State :=
  match allAgents.filter s.enabled with
  | [] => s
  | a :: rest =>
    s.bumpFree.agentStep
      ((a :: rest).getD (Config.freeAgent s.draws.free % (rest.length + 1)) a)

/-! ## Moves -/

/-- One scheduled move. -/
def runMove (m : Move) (s : State) : Host.Outcome State Fault Refusal :=
  match m with
  | .regWrite width off v => s.hostWrite width off v
  | .regRead width off => s.hostRead width off
  | .event w => eventWord w s
  | .ringWrite k bytes done => s.radioWrite k bytes done
  | .agent a => s.scheduledAgent a

/-- The move that delivers a word of the opcode table to the port it belongs to. -/
def moveOfWord (w : Word) : Move :=
  match portOf w with
  | .cmd => .regWrite 4 0x000 w
  | .evt => .event w

/-- A pseudo-instruction's line as the register writes it expands to (30_encoding.md R200, R201). -/
def pseudoMoves : Instr → List Move
  | .backoffCancel sel => [.regWrite 4 0x004 0, .regWrite 4 0x000 (cmdWord 0x30 sel 0 0)]
  | .stopNow => [.regWrite 4 0x000 (cmdWord 0x13 0 0 0)]
  | .stopGraceful => [.regWrite 4 0x000 (cmdWord 0x13 0 1 0)]
  | .tcRearm ch cb delta =>
    [.regWrite 4 0x004 delta,
     .regWrite 4 0x000 (cmdWord 0x15 ((0 : BitVec 3) ++ BitVec.ofBool (chanBit ch)) 0 cb)]
  | .setAddr p a e =>
    [.regWrite 4 0x000 (cmdWord 0x40 0 0 p), .regWrite 4 0x000 (cmdWord 0x41 0 0 a),
     .regWrite 4 0x004 (extLow e), .regWrite 4 0x008 (extHigh e), .regWrite 4 0x000 (cmdWord 0x42 0 0 0)]
  | .promiscOn => [.regWrite 4 0x000 (cmdWord 0x43 0 1 0x00FF)]
  | _ => []

end Sys2Proof.Machine
end

