-- ==== Sys2Proof/Machine/Step.lean ====
section
/-!
DEFINITION. The step: the next scheduled move, or, with nothing scheduled, a step of an enabled internal
agent. RCS has no program counter and fetches no instructions (10_state.md R31): the "next instruction"
is the word the next scheduled move delivers (log entry 7).
-/

namespace Sys2Proof.Machine

/-- One step. A configuration that breaks a premise is refused (00_scope.md R7). -/
def step (s : State) : Host.Outcome State Fault Refusal :=
  if s.cfg.admitted then
    match s.sched with
    | [] => .next s.idleStep
    | m :: rest => runMove m { s with sched := rest }
  else .refused .configNotAdmitted

/-- `s` with a word of the opcode table as its next scheduled move, at the port it belongs to. -/
def State.withFetchWord (s : State) (nbits w : Nat) : State :=
  { s with sched := moveOfWord (tableWord nbits w) :: s.sched }

end Sys2Proof.Machine
end

