-- ==== Sys2Proof/Safety.lean ====
section
/-!
DEFINITION. What claims about RCS are stated in: when the block takes commands, the final states of
60_exceptions.md R516, the guard and the submissions as the rules word them, and the invariants the spec
states of every reachable state (10_state.md R36, R54; 40_scheduler.md R268; 43_backoff_timers.md R433)
together with those its rules imply.
-/

namespace Sys2Proof.Machine

/-- INIT has succeeded: commands, events and internal steps have their effect (00_scope.md R12). -/
def State.ready (s : State) : Prop := s.init = true ∧ s.fatal = false

/-- The principal slots (00_scope.md R13). -/
def principals : List Slot := [.rx, .tx, .ack, .noop]

/-- The number of principals in flight. -/
def State.inFlightPrincipals (s : State) : Nat := (principals.filter s.inflight.get).length

/-! ## Final states -/

/-- No PARSER step is enabled. -/
def State.parserQuiet (s : State) : Bool := !s.enabled .parser

/-- A final state (60_exceptions.md R516): no fault recorded, and either the fatal state, or INIT done with
nothing in flight and no internal step due. -/
def State.final (s : State) : Bool :=
  s.faults.isEmpty &&
    (s.fatal ||
      (s.init && decide (s.inflight = PerSlot.all false) && decide (s.cntTotal = 0) &&
        decide (s.rxState = .idle) &&
        !s.bo.rx.running && !s.bo.tx.running && !s.bo.noop.running &&
        !s.retryEvt.rx && !s.retryEvt.tx && !s.retryEvt.noop && !s.ackWait &&
        !s.tc.a.armed && !s.tc.b.armed && s.parserQuiet))

/-! ## Instructions in claims -/

/-- Instructions run one after the other, with no other agent's step between them. -/
def execAll : List Instr → State → Host.Outcome State Fault Refusal
  | [], s => .next s
  | i :: rest, s =>
    match exec i s with
    | .next t => execAll rest t
    | .fault r => .fault r
    | .refused r => .refused r

/-- The event word with handle `h` whose only event bit is 8 + b (30_encoding.md R160). -/
def oneBitEvent (h : Byte) (b : Nat) : Instr :=
  match b with
  | 0 => .evtPreamble h 0
  | 1 => .evtFrameOk h 0
  | 2 => .evtBadCrc h 0
  | 3 => .evtBufFull h 0
  | 4 => .evtCmdDone h 0
  | 5 => .evtCmdStopped h 0
  | 6 => .evtCmdPreempted h 0
  | _ => .evtTcFired h

/-- The event word that ends a command of handle `h` (40_scheduler.md R261, R263, R264). -/
def endEvent (k : EndKind) (h : Byte) : Instr :=
  match k with
  | .done => .evtCmdDone h 0
  | .stopped => .evtCmdStopped h 0
  | .preempted => .evtCmdPreempted h 0

/-- The state with the fault UNINIT recorded (60_exceptions.md R493). -/
def State.withUninit (s : State) : State :=
  { s with faults := if .uninit ∈ s.faults then s.faults else s.faults ++ [.uninit] }

/-- The command obeys the common guard (00_scope.md R12): UNINIT before INIT, FATAL in the fatal state,
and nothing else changes. -/
def Guarded (i : Instr) : Prop :=
  ∀ s : State,
    (s.init = false → exec i s = .next s.withUninit) ∧
      (s.init = true → s.fatal = true → exec i s = .next { s with res := 0x00000008 })

/-- The event obeys guardEvt (R12): UNINIT before INIT, nothing in the fatal state. -/
def GuardedEvt (i : Instr) : Prop :=
  ∀ s : State,
    (s.init = false → exec i s = .next s.withUninit) ∧
      (s.init = true → s.fatal = true → exec i s = .next s)

/-- A register access is the next move: the host reads offset `off`. -/
def State.reads (s : State) (off : BitVec 12) (rest : List Move) : Prop := s.sched = .regRead 4 off :: rest

/-! ## Submissions as the rules word them (40_scheduler.md R231 to R246) -/

/-- PowerVote(HOLD) when the first command goes in flight (R232, R266). -/
def State.holdVote (s : State) : List OutMsg := if s.cntTotal = 0 then [.powerVote .hold] else []

/-- The arena after chainRx(ch) (R231). RX's param0 is RING_N, 16 included (log entry 32). -/
def State.rxArena (s : State) (ch : Half) : PerSlot Desc :=
  if s.progValid = false ∨ s.progChannel ≠ ch then
    { s.desc with
      fsRx := ⟨.idle, .immediate, 0, some .rx, .never, (0 : Half) ++ ch, 0⟩
      rx := ⟨.idle, .relPrev, 0, none, .never, BitVec.ofNat 32 s.cfg.ringN, 0⟩ }
  else
    { s.desc with
      rx := ⟨.idle, .immediate, 0, none, .never, BitVec.ofNat 32 s.cfg.ringN, 0⟩ }

/-- Submit(RX, head, 0x7F, NONE) (R189, R233). -/
def State.rxSubmit (s : State) (ch : Half) : OutMsg :=
  .submit .rx (if s.progValid = false ∨ s.progChannel ≠ ch then .fsRx else .rx) 0x7F none

/-- doSubmitRx(ch), the radio accepting (R234). -/
def State.rxAccepted (s : State) (ch : Half) : State :=
  { s with
    draws := s.drawAccept.2.draws
    desc := s.rxArena ch
    out := s.out ++ [s.rxSubmit ch] ++ s.holdVote
    inflight := { s.inflight with
      fsRx := s.inflight.fsRx || (!s.progValid || decide (s.progChannel ≠ ch))
      rx := true }
    cntTotal := s.cntTotal + 1
    cntRx := s.cntRx + 1
    progChannel := ch
    progValid := true
    bo := { s.bo with rx := { s.bo.rx with running := false } }
    retryEvt := { s.retryEvt with rx := false }
    retryArgs := { s.retryArgs with rx := { s.retryArgs.rx with valid := false } } }

/-- doSubmitRx(ch), the radio rejecting (R234); the fields a class's stored retry lacks hold 0 (log entry 24). -/
def State.rxRejected (s : State) (ch : Half) : State :=
  { s with
    draws := s.drawAccept.2.draws
    desc := s.rxArena ch
    out := s.out ++ [s.rxSubmit ch]
    bo := { s.bo with rx := ⟨true, s.cfg.rxBoDelay⟩ }
    retryEvt := { s.retryEvt with rx := false }
    retryArgs := { s.retryArgs with rx := ⟨true, ch, 0, 0, 0⟩ } }

/-- The arena after chainTx(ch, cca, buf, len, air) (R231). -/
def State.txArena (s : State) (ch : Half) (cca : Bool) (a0 a1 : Word) : PerSlot Desc :=
  { s.desc with
    fsTx :=
      if s.progValid = false ∨ s.progChannel ≠ ch then
        ⟨.idle, .immediate, 0, some (if cca then .cca else .tx), .never, (0 : Half) ++ ch, 0⟩
      else s.desc.fsTx
    cca :=
      if cca then
        ⟨.idle, if s.progValid = false ∨ s.progChannel ≠ ch then .relPrev else .immediate, 0, some .tx,
          .stopOnFalse, 0, 0⟩
      else s.desc.cca
    tx :=
      ⟨.idle, if (s.progValid = false ∨ s.progChannel ≠ ch) ∨ cca = true then .relPrev else .immediate, 0,
        none, .never, (0 : BitVec 13) ++ a1.extractLsb' 16 11 ++ a1.extractLsb' 8 8, a0⟩ }

/-- Submit(TX, head, 0x70, NONE) (R189, R240). -/
def State.txSubmit (s : State) (ch : Half) (cca : Bool) : OutMsg :=
  .submit .tx
    (if s.progValid = false ∨ s.progChannel ≠ ch then .fsTx else if cca then .cca else .tx) 0x70 none

/-- doSubmitTx(ch, flg, a0, a1), the radio accepting (R241). -/
def State.txAccepted (s : State) (ch : Half) (flg : BitVec 4) (a0 a1 : Word) : State :=
  { s with
    draws := s.drawAccept.2.draws
    desc := s.txArena ch (flg.getLsbD 1) a0 a1
    out := s.out ++ [s.txSubmit ch (flg.getLsbD 1)] ++ s.holdVote
    inflight := { s.inflight with
      fsTx := s.inflight.fsTx || (!s.progValid || decide (s.progChannel ≠ ch))
      cca := s.inflight.cca || flg.getLsbD 1
      tx := true }
    cntTotal := s.cntTotal + 1
    progChannel := ch
    progValid := true
    txAckReq := flg.getLsbD 0
    txSeq := a1.extractLsb' 0 8
    txDur := a0
    bo := { s.bo with tx := { s.bo.tx with running := false } }
    retryEvt := { s.retryEvt with tx := false }
    retryArgs := { s.retryArgs with tx := { s.retryArgs.tx with valid := false } } }

/-- doSubmitTx(ch, flg, a0, a1), the radio rejecting (R241). -/
def State.txRejected (s : State) (ch : Half) (flg : BitVec 4) (a0 a1 : Word) : State :=
  { s with
    draws := s.drawAccept.2.draws
    desc := s.txArena ch (flg.getLsbD 1) a0 a1
    out := s.out ++ [s.txSubmit ch (flg.getLsbD 1)]
    bo := { s.bo with tx := ⟨true, s.cfg.txBoDelay⟩ }
    retryEvt := { s.retryEvt with tx := false }
    retryArgs := { s.retryArgs with tx := ⟨true, ch, flg, a0, a1⟩ } }

/-- The arena after chainNoop() (R231). -/
def State.noopArena (s : State) : PerSlot Desc :=
  { s.desc with noop := ⟨.idle, .immediate, 0, none, .never, 0, 0⟩ }

/-- doSubmitNoop(), the radio accepting (R246). -/
def State.noopAccepted (s : State) : State :=
  { s with
    draws := s.drawAccept.2.draws
    desc := s.noopArena
    out := s.out ++ [.submit .noop .noop 0x70 none] ++ s.holdVote
    inflight := { s.inflight with noop := true }
    cntTotal := s.cntTotal + 1
    bo := { s.bo with noop := { s.bo.noop with running := false } }
    retryEvt := { s.retryEvt with noop := false }
    retryArgs := { s.retryArgs with noop := { s.retryArgs.noop with valid := false } } }

/-- doSubmitNoop(), the radio rejecting (R246). -/
def State.noopRejected (s : State) : State :=
  { s with
    draws := s.drawAccept.2.draws
    desc := s.noopArena
    out := s.out ++ [.submit .noop .noop 0x70 none]
    bo := { s.bo with noop := ⟨true, s.cfg.noopBoDelay⟩ }
    retryEvt := { s.retryEvt with noop := false }
    retryArgs := { s.retryArgs with noop := ⟨true, 0, 0, 0, 0⟩ } }

/-! ## The duty cycle and the timer compare as the rules word them (R253; 42_duty_cycle.md R390 to R398) -/

/-- A threshold lowered by the beacon airtime, floored at 0, while PAN coordinator and beacon-enabled (R390). -/
def State.threshold (s : State) (t : Word) : Int :=
  if s.panCoord = true ∧ s.beaconEn = true then max 0 ((t.toNat : Int) - s.dcBeacon.toNat) else t.toNat

/-- The mode a total falls in (R391). -/
def State.modeOf (s : State) (total : Int) : DcMode :=
  if s.threshold s.cfg.tRegulated ≤ total then .regulated
  else if s.threshold s.cfg.tCritical ≤ total then .critical
  else if s.threshold s.cfg.tLimited ≤ total then .limited
  else .normal

/-- The transmission of `a` microseconds passes the duty-cycle check (R395). -/
def State.dcPasses (s : State) (a : Word) : Prop :=
  s.dcRecorded = false ∨ (s.dcTotal.toNat : Int) + a.toNat < s.threshold s.cfg.tRegulated

/-- The state with a new mode, and one DcModeChanged if it differs from the old one (R398). -/
def State.withMode (s : State) (m : DcMode) : State :=
  { s with dcMode := m, out := s.out ++ if m ≠ s.dcMode then [.dcModeChanged m] else [] }

/-- dcAdd(d) (R392): a record never lowers the mode. -/
def State.recorded (s : State) (d : Word) : State :=
  { s with
    dcBucket := s.dcBucket.set s.dcCur.toNat (s.dcBucket.getD s.dcCur.toNat 0 + d)
    dcTotal := s.dcTotal + d
    dcRecorded := true }.withMode
    (if s.dcMode.num < (s.modeOf (s.dcTotal + d).toNat).num then s.modeOf (s.dcTotal + d).toNat else s.dcMode)

/-- The number of the oldest bucket (R396). -/
def State.oldest (s : State) : Nat := (s.dcCur.toNat + 1) % s.cfg.nBuckets

/-- The body of DC_ADVANCE (R396). -/
def State.advanced (s : State) : State :=
  { s with
    dcBucket := s.dcBucket.set s.oldest 0
    dcTotal := s.dcTotal - s.dcBucket.getD s.oldest 0
    dcCur := BitVec.ofNat 6 s.oldest }.withMode
    (s.modeOf (s.dcTotal - s.dcBucket.getD s.oldest 0).toNat)

/-- The body of SETUP_TC with delta `d` (R253): disable an armed channel, then arm it at ratNow + d. -/
def State.tcSetUp (s : State) (ch : TcChan) (cb : Half) (d : Word) : State :=
  let dl := s.drawRatNow.1 + d
  { s with
    draws := s.drawRatNow.2.draws
    desc := s.desc.set ch.slot ⟨.idle, .absTime, dl, none, .never, (0 : Half) ++ cb, dl⟩
    tc := s.tc.set ch ⟨true, cb, dl⟩
    out := s.out ++ (if (s.tc.get ch).armed then [.disableTc ch] else []) ++ [.armTc ch cb dl] }

/-- The body of STOP_ALL (40_scheduler.md R248): CCA's successor is cut off, the flush is sent, a frame
mid-decode is discarded, and the receive machine is IDLE (41_rx_frame_fsm.md R363). -/
def State.stopped (s : State) (g : Bool) : State :=
  let u : State := { s with
    desc := { s.desc with cca := { s.desc.cca with next := none } }
    out := s.out ++ [.flushAll g] }
  if s.rxState.midDecode then { u.discard .aborted with rxState := .idle } else { u with rxState := .idle }

/-- boRequest(c, d) (43_backoff_timers.md R430). -/
def State.boAsked (s : State) (c : OpClass) (d : Word) : State :=
  { s with
    bo := s.bo.set c (if d = 0 then { s.bo.get c with running := false } else ⟨true, d⟩)
    retryEvt := s.retryEvt.set c false }

/-- The class a SEL value names (30_encoding.md R154). -/
def classNumber : OpClass → BitVec 4
  | .rx => 0
  | .tx => 1
  | .noop => 2

/-- The slot names a handle of its terminal events (R260). -/
def handleOf (p : Slot) : Byte := BitVec.ofNat 8 p.num

/-- The PowerVote messages of a list, in order. -/
def powerVotes (l : List OutMsg) : List Vote :=
  l.filterMap fun m =>
    match m with
    | .powerVote v => some v
    | _ => none

/-! ## Runs and fairness (43_backoff_timers.md R437; 60_exceptions.md R511) -/

/-- An endless run: the state before each move and the move made there; none where nothing moves. The moves
come from outside, one at a time (log entry 7). -/
structure Run where
  state : Nat → State
  move : Nat → Option Move

/-- Each move is a step of the machine that has that move alone on its schedule. -/
def Run.valid (r : Run) : Prop :=
  ∀ n, match r.move n with
    | none => r.state (n + 1) = r.state n
    | some m => step { r.state n with sched := [m] } = .next (r.state (n + 1))

/-- An agent continuously enabled eventually steps (R511). -/
def Run.weaklyFair (r : Run) (a : Agent) : Prop :=
  ∀ n, (∀ k, n ≤ k → (r.state k).enabled a = true) → ∃ k, n ≤ k ∧ r.move k = some (.agent a)

/-- The fairness of R511: BOTIMER(c), ACKTIMER, RETRY(c) and PARSER. RADIO and HOST are not assumed fair. -/
def Run.fair (r : Run) : Prop := ∀ a : Agent, r.weaklyFair a

/-- Move `n` is the host's write of a CMD word that decodes to `i`. -/
def Run.commands (r : Run) (n : Nat) (i : Instr) : Prop :=
  ∃ w, r.move n = some (.regWrite 4 0x000 w) ∧ decodeCmd w = .ok i

/-- `i` is the submission of class `c` (R430). -/
def submission (c : OpClass) (i : Instr) : Prop :=
  match c with
  | .rx => ∃ ch, i = .submitRx ch
  | .tx => ∃ ch a cca, i = .submitTx ch a cca
  | .noop => i = .submitNoop

/-- A rejected submission of class `c` is stored and its backoff runs or has expired (R435). -/
def State.awaitsRetry (s : State) (c : OpClass) : Prop :=
  s.ready ∧ (s.retryArgs.get c).valid = true ∧ ((s.bo.get c).running = true ∨ s.retryEvt.get c = true)

/-- The class is not busy, so that a retry submits and is not dropped (R435, R436). -/
def State.retryClear (s : State) (c : OpClass) : Prop :=
  match c with
  | .rx => s.rxState.midDecode = false ∧ s.inflight.rx = false
  | .tx => s.inflight.tx = false ∧ s.ackWait = false ∧ s.dcAllowed s.retryArgs.tx.arg0 = true
  | .noop => s.inflight.noop = false

/-- Move `n` retries the stored submission of class `c` (R435). -/
def Run.retries (r : Run) (n : Nat) (c : OpClass) : Prop :=
  r.move n = some (.agent (.retry c)) ∧ ((r.state n).retryArgs.get c).valid = true

/-- Move `n` is the host's cancel of the backoff of class `c`, a submission of the class that succeeds, or an
INIT that is not turned away (R437; an INIT resets the timers, 40_scheduler.md R230). -/
def Run.settles (r : Run) (n : Nat) (c : OpClass) : Prop :=
  (r.commands n (.backoffReq (classNumber c)) ∧ (r.state n).arg0 = 0) ∨
    (∃ i, submission c i ∧ r.commands n i ∧ (r.state (n + 1)).res = 0x00000000) ∨
    (r.commands n .init ∧ (r.state (n + 1)).res ≠ 0x00000002)

/-- Move `n` is the host's arming of the backoff of class `c`, or a submission of the class: it may drop an
expiry not yet consumed (R430). -/
def Run.rearms (r : Run) (n : Nat) (c : OpClass) : Prop :=
  r.commands n (.backoffReq (classNumber c)) ∨ ∃ i, submission c i ∧ r.commands n i

/-! ## Invariants -/

/-- The outstanding counters and the in-flight bits (10_state.md R36, R37; 40_scheduler.md R233, R268). -/
structure State.FlightInv (s : State) : Prop where
  /-- S.cntTotal counts the principals in flight (R36). -/
  total : s.cntTotal.toNat = s.inFlightPrincipals
  /-- S.cntRx is 1 exactly while RX is in flight (R36). -/
  rx : s.cntRx = if s.inflight.rx then 1 else 0
  /-- A chain-prefix slot is in flight only while its principal is (R268). -/
  fsRx : s.inflight.fsRx = true → s.inflight.rx = true
  fsTx : s.inflight.fsTx = true → s.inflight.tx = true
  cca : s.inflight.cca = true → s.inflight.tx = true
  /-- Never set for SETUP, TC_A, TC_B (R37). -/
  never : s.inflight.setup = false ∧ s.inflight.tcA = false ∧ s.inflight.tcB = false
  /-- S.ackQueued = 1 implies S.inflight[ACK] = 1 (R268). -/
  ack : s.ackQueued = true → s.inflight.ack = true
  /-- A frame is mid-decode, or HALTED, only while RX is in flight (R233). -/
  frame : s.rxState ≠ .idle → s.inflight.rx = true
  /-- Nothing is in flight before INIT and in the fatal state (70_reset_and_hazards.md R541, R542). -/
  down : s.init = false ∨ s.fatal = true → s.cntTotal = 0
  /-- The fatal state follows a failed INIT (R33, R494). -/
  fatal : s.fatal = true → s.init = true

/-- The receive state holds an allocated partial frame: the frame has passed its header step and is
neither discarded nor handed over (20_memory.md R117). -/
def RxState.holdsFrame : RxState → Bool
  | .idle => false
  | .started => false
  | .addr => true
  | .secHdr => true
  | .payload => true
  | .trailer => true
  | .halted => false

/-- The auxiliary security fields are 0: the frame is unsecured, or its security header is not read yet (10_state.md
R49, 30_encoding.md R194). -/
abbrev PartialFrame.securityClear (f : PartialFrame) : Prop :=
  f.secCtl = 0 ∧ f.frameCounter = 0 ∧ f.keyIdMode = 0 ∧ f.keySource = 0 ∧ f.keyIndex = 0 ∧ f.micLen = 0

/-- Every field the frame does not carry is 0 (R49, R194; 93_implementation_defined.md U14). -/
structure PartialFrame.AbsentZero (f : PartialFrame) : Prop where
  seq : f.seqPresent = false → f.seq = 0
  dstPan : f.dstPanPresent = false → f.dstPan = 0
  srcPan : f.srcPanPresent = false → f.srcPan = 0
  dstAddr : f.dstMode ≠ 2 → f.dstMode ≠ 3 → f.dstAddr = 0
  srcAddr : f.srcMode ≠ 2 → f.srcMode ≠ 3 → f.srcAddr = 0
  unsecured : f.fcf.getLsbD 3 = false → f.securityClear
  counter : f.secCtl.getLsbD 5 = true → f.frameCounter = 0
  keyless : f.keyIdMode = 0 → f.keySource = 0 ∧ f.keyIndex = 0
  sourceless : f.keyIdMode = 1 → f.keySource = 0

/-- The partial frame against the receive state (R117; 41_rx_frame_fsm.md R305 to R340). -/
structure State.FrameInv (s : State) : Prop where
  /-- S.pf.valid = 1 exactly while a frame is held. -/
  valid : s.pf.valid = s.rxState.holdsFrame
  /-- A started frame has every field 0 and no buffer (R305). -/
  started : s.rxState = .started → s.pf = PartialFrame.empty
  /-- The buffer is sized mpduLen (R306). -/
  buf : s.rxState.holdsFrame = true → s.pf.buf.length = s.pf.mpduLen.toNat
  /-- The header fits the frame before its security header is read (R308 check 6). -/
  base : s.rxState = .addr ∨ s.rxState = .secHdr → s.pf.mhrBase.toNat ≤ s.pf.mpduLen.toNat ∧ s.pf.micLen = 0
  /-- Header and MIC fit the frame afterwards (R331). -/
  mhr : s.rxState = .payload ∨ s.rxState = .trailer →
    s.pf.mhrLen.toNat + s.pf.micLen.toNat ≤ s.pf.mpduLen.toNat
  /-- What the frame does not carry reads 0 (R49, R313 corner case). -/
  absent : s.rxState.holdsFrame = true → s.pf.AbsentZero
  /-- Nothing of the security header is there before SECHDR has read it (R331). -/
  security : s.rxState = .addr ∨ s.rxState = .secHdr → s.pf.securityClear
  /-- Only a secured frame has a security header to read (R313 pass, R330). -/
  secured : s.rxState = .secHdr → s.pf.fcf.getLsbD 3 = true
  /-- Information elements and the enhanced ACK are the dispatch's (R352, R353). -/
  dispatch : s.rxState.holdsFrame = true → s.pf.ieLen = 0 ∧ s.pf.enhAckSubmitted = false
  /-- payloadLen = mpduLen - mhrLen once the payload is copied (R340). -/
  payload : s.rxState = .trailer → s.pf.payloadLen.toNat + s.pf.mhrLen.toNat = s.pf.mpduLen.toNat

/-- The stored operands of a class are ones its command accepts (43_backoff_timers.md R435). -/
def State.retryArgsOk (s : State) (c : OpClass) (a : RetryArgs) : Prop :=
  match c with
  | .rx => a.channel.toNat < s.cfg.nChannels
  | .tx =>
    a.channel.toNat < s.cfg.nChannels ∧ txLenField a.arg1 ≠ 0 ∧
      (txLenField a.arg1).toNat ≤ s.cfg.maxFrameSize ∧ txReservedField a.arg1 = 0
  | .noop => True

/-- The backoff timers and the retry engine (R433, R435). -/
structure State.TimerInv (s : State) : Prop where
  /-- running = 1 implies retryEvt = 0 (R433). -/
  one : ∀ c, (s.bo.get c).running = true → s.retryEvt.get c = false
  /-- "The stored operands were valid when stored" (R435). -/
  args : ∀ c, (s.retryArgs.get c).valid = true → s.retryArgsOk c (s.retryArgs.get c)

/-- The duty-cycle window (10_state.md R53, R54). -/
structure State.DutyInv (s : State) : Prop where
  /-- The running total equals the sum of all bucket contents (R54). -/
  total : s.dcTotal.toNat = (s.dcBucket.map BitVec.toNat).sum
  /-- There are N_BUCKETS buckets. -/
  buckets : s.dcBucket.length = s.cfg.nBuckets
  /-- S.dcCur names one of them. -/
  cur : s.dcCur.toNat < s.cfg.nBuckets
  /-- Nothing is in the window before the first record. -/
  recorded : s.dcRecorded = false → s.dcTotal = 0

/-- The receive ring (20_memory.md R110 to R116). -/
structure State.RingInv (s : State) : Prop where
  entries : s.ring.length = s.cfg.ringN
  rdIdx : s.rdIdx.toNat < s.cfg.ringN
  curEntry : s.curEntry.toNat < s.cfg.ringN
  /-- The entry the radio last wrote is one of them (R112). -/
  radioLast : ∀ l, s.radioLast = some l → l.toNat < s.cfg.ringN
  /-- No entry holds more than ENTRY_SIZE bytes (R113). -/
  size : ∀ e ∈ s.ring, e.rxCount.toNat ≤ s.cfg.entrySize
  /-- An entry is PENDING exactly while it is empty (R112, R113). -/
  pending : ∀ e ∈ s.ring, e.status = .pending ↔ e.rxCount = 0
  /-- The ring bytes are in canonical form. -/
  memory : s.ringData.wf = true

/-- All of them. -/
structure State.Inv (s : State) : Prop where
  flight : s.FlightInv
  frame : s.FrameInv
  timer : s.TimerInv
  duty : s.DutyInv
  ring : s.RingInv

end Sys2Proof.Machine
end

