-- ==== Sys2Proof/Certificates/Slice0/Obligations.lean ====
section
/-!
DEFINITION. The statements about RCS, in the order of OBLIGATIONS.json: encodings, what a step runs, every
command, every event, the receive machine, the timers, the registers, and what every step keeps.
-/

open Sys2Proof Sys2Proof.Machine

/-! ## Encodings -/

/-- Decoding what the encoder writes gives the instruction back, every operand at every value; a
pseudo-instruction's words give its expansion (30_encoding.md R154, R159, R201). -/
def Obligations.DecodeOfEncode : Prop :=
  ∀ i : Instr, (encode i).map (decode i.port) = i.expansion.map Except.ok

/-- A word that decodes is the encoding of the instruction it decodes to, at that instruction's port: the
decoder drops no bit of a word (R154, R155, R161). -/
def Obligations.EncodeOfDecode : Prop :=
  ∀ (p : Port) (w : Word) (i : Instr), decode p w = .ok i → encode i = [w] ∧ i.port = p ∧ i.expansion = [i]

/-- The field table of commands, row by row, and the opcodes of no row (R153, R154). -/
def Obligations.CommandRows : Prop :=
  ∀ w : Word,
    (decodeCmd w = .ok .init ↔ w &&& 0xFFFFFFFF = 0x00000001) ∧
    (∀ ch, decodeCmd w = .ok (.submitRx ch) ↔ w &&& 0x0000FFFF = 0x00000010 ∧ ch = w.extractLsb' 16 16) ∧
    (∀ ch a c, decodeCmd w = .ok (.submitTx ch a c) ↔
      w &&& 0x0000CFFF = 0x00000011 ∧ ch = w.extractLsb' 16 16 ∧ a = w.getLsbD 12 ∧ c = w.getLsbD 13) ∧
    (decodeCmd w = .ok .submitNoop ↔ w &&& 0xFFFFFFFF = 0x00000012) ∧
    (∀ g, decodeCmd w = .ok (.stopAll g) ↔ w &&& 0xFFFFEFFF = 0x00000013 ∧ g = w.getLsbD 12) ∧
    (∀ v, decodeCmd w = .ok (.updateTxPower v) ↔
      w &&& 0x0000FFFF = 0x00000014 ∧ v = w.extractLsb' 16 16) ∧
    (∀ ch cb, decodeCmd w = .ok (.setupTc ch cb) ↔
      w &&& 0x0000FEFF = 0x00000015 ∧ ch = (if w.getLsbD 8 then .b else .a) ∧ cb = w.extractLsb' 16 16) ∧
    (decodeCmd w = .ok .dcRecord ↔ w &&& 0xFFFFFFFF = 0x00000020) ∧
    (decodeCmd w = .ok .dcCheck ↔ w &&& 0xFFFFFFFF = 0x00000021) ∧
    (decodeCmd w = .ok .dcAdvance ↔ w &&& 0xFFFFFFFF = 0x00000022) ∧
    (∀ p b, decodeCmd w = .ok (.setRole p b) ↔
      w &&& 0xFFFFCFFF = 0x00000023 ∧ p = w.getLsbD 12 ∧ b = w.getLsbD 13) ∧
    (∀ c, decodeCmd w = .ok (.backoffReq c) ↔ w &&& 0xFFFFF0FF = 0x00000030 ∧ c = w.extractLsb' 8 4) ∧
    (∀ p, decodeCmd w = .ok (.setPan p) ↔ w &&& 0x0000FFFF = 0x00000040 ∧ p = w.extractLsb' 16 16) ∧
    (∀ a, decodeCmd w = .ok (.setShort a) ↔ w &&& 0x0000FFFF = 0x00000041 ∧ a = w.extractLsb' 16 16) ∧
    (decodeCmd w = .ok .setExt ↔ w &&& 0xFFFFFFFF = 0x00000042) ∧
    (∀ a p e f, decodeCmd w = .ok (.setFilterMode a p e f) ↔
      w &&& 0xFF008FFF = 0x00000043 ∧ a = w.extractLsb' 16 8 ∧ p = w.getLsbD 12 ∧ e = w.getLsbD 13 ∧
        f = w.getLsbD 14) ∧
    ((∃ o, decodeCmd w = .error (.reservedOpcode o)) ↔
      let o := w.toNat % 256
      o = 0x00 ∨ (0x02 ≤ o ∧ o ≤ 0x0F) ∨ (0x16 ≤ o ∧ o ≤ 0x1F) ∨ (0x24 ≤ o ∧ o ≤ 0x2F) ∨
        (0x31 ≤ o ∧ o ≤ 0x3F) ∨ 0x44 ≤ o)

/-- Words written out from the spec's own examples decode to the instructions they stand for, at both ports
(R154, R160; 95_test_vectors.md). -/
def Obligations.SampleWords : Prop :=
  decodeCmd 0x00000001 = .ok .init ∧
  decodeCmd 0x00030010 = .ok (.submitRx 3) ∧
  decodeCmd 0x00033011 = .ok (.submitTx 3 true true) ∧
  decodeCmd 0x00001013 = .ok (.stopAll true) ∧
  decodeCmd 0x00070115 = .ok (.setupTc .b 7) ∧
  decodeCmd 0x00003023 = .ok (.setRole true true) ∧
  decodeCmd 0x00000130 = .ok (.backoffReq 1) ∧
  decodeCmd 0x000F4043 = .ok (.setFilterMode 0x0F false false true) ∧
  decodeCmd 0x00034011 = .error (.reservedBits 0x11) ∧
  decodeCmd 0x00000044 = .error (.reservedOpcode 0x44) ∧
  decodeEvt 0x00000102 = .ok (.evtPreamble 2 0) ∧
  decodeEvt 0x00003005 = .ok (.evtCmdDone 5 1) ∧
  decodeEvt 0x00008008 = .ok (.evtTcFired 8) ∧
  decodeEvt 0x00010102 = .error .eventReservedBits ∧
  decodeEvt 0x00000002 = .error .noEventBit

/-! ## What a step runs -/

/-- A step runs the decoded instruction: the word a move delivers, at its port, is executed on the state with
that move taken off the schedule, and nothing else is added around it. Nothing advances: RCS has no pc
(10_state.md R31; the schedule is the model's, log entry 7). -/
def Obligations.StepRunsDecoded : Prop :=
  ∀ (s : State) (i : Instr) (w : Word) (rest : List Move), s.cfg.admitted = true →
    (s.sched = .regWrite 4 0x000 w :: rest → decodeCmd w = .ok i →
      step s = exec i { s with sched := rest }) ∧
    (s.sched = .event w :: rest → decodeEvt w = .ok i → step s = exec i { s with sched := rest }) ∧
    (∀ nbits n : Nat, decodeTableWord nbits n = some i → step (s.withFetchWord nbits n) = exec i s)

/-- A write of CMD (R155): UNINIT before anything else, then ILLEGAL_OP for a word that is no command, and
nothing but RES changes then; else the command runs. -/
def Obligations.CommandWord : Prop :=
  ∀ (s : State) (w : Word) (rest : List Move), s.cfg.admitted = true →
    s.sched = .regWrite 4 0x000 w :: rest →
    let u : State := { s with sched := rest }
    (u.init = false → w.extractLsb' 0 8 ≠ 0x01 → step s = .next u.withUninit) ∧
    (u.init = true ∨ w.extractLsb' 0 8 = 0x01 →
      (∀ e, decodeCmd w = .error e → step s = .next { u with res := 0x00000007 }) ∧
      (∀ i, decodeCmd w = .ok i → step s = exec i u))

/-- Delivery of an event word (R161): the guard, the words that only count UNEXPECTED_EVENT, and the bits in
ascending order, each seeing what the lower ones left; a bit outside its handle's mask only counts (R189). -/
def Obligations.EventWord : Prop :=
  (∀ (s : State) (w : Word) (rest : List Move), s.cfg.admitted = true → s.sched = .event w :: rest →
    let u : State := { s with sched := rest }
    let h : Byte := w.extractLsb' 0 8
    (u.init = false → step s = .next u.withUninit) ∧
    (u.init = true → u.fatal = true → step s = .next u) ∧
    (u.ready → w.extractLsb' 16 16 ≠ (0 : Half) ∨ 9 < h.toNat ∨ w.extractLsb' 8 8 = (0 : Byte) →
      step s = .next (u.count .unexpectedEvent)) ∧
    (u.ready → w.extractLsb' 16 16 = (0 : Half) → h.toNat ≤ 9 → w.extractLsb' 8 8 ≠ (0 : Byte) →
      step s = execAll (((List.range 8).filter fun b => w.getLsbD (8 + b)).map (oneBitEvent h)) u)) ∧
  (∀ (s : State) (h : Byte) (b : Nat), s.ready → h.toNat ≤ 9 → b < 8 →
    (if h = 2 then (0x7F : Byte) else if h = 5 ∨ h = 6 ∨ h = 7 then 0x70
      else if h = 8 ∨ h = 9 then 0x80 else 0x00).getLsbD b = false →
    exec (oneBitEvent h b) s = .next (s.count .unexpectedEvent))

/-- The common guards (00_scope.md R12): every command but INIT, every event word, every internal agent. -/
def Obligations.Guards : Prop :=
  (∀ i : Instr, i.port = .cmd → i.expansion = [i] → i ≠ .init → Guarded i) ∧
  (∀ i : Instr, i.port = .evt → GuardedEvt i) ∧
  (∀ (s : State) (a : Agent), s.enabled a = true → s.init = true ∧ s.fatal = false)

/-- The fatal state (60_exceptions.md R494): how INIT enters it, that only INIT does, that no step leaves it,
that every command then answers FATAL and changes nothing else, that events are ignored, that no agent is
enabled, and that it is final. -/
def Obligations.FatalState : Prop :=
  (∀ s : State, s.fatal = false → s.init = false ∨ s.cntTotal = 0 → s.ringAllocated = false →
    s.drawRingAllocOk.1 = false → ∃ t, exec .init s = .next t ∧ t.fatal = true) ∧
  (∀ s t : State, step s = .next t → s.fatal = false → t.fatal = true →
    ∃ rest, s.sched = .regWrite 4 0x000 0x00000001 :: rest) ∧
  (∀ s t : State, step s = .next t → s.fatal = true → t.fatal = true) ∧
  (∀ (s : State) (i : Instr), s.init = true → s.fatal = true → i.port = .cmd → i.expansion = [i] →
    exec i s = .next { s with res := 0x00000008 }) ∧
  (∀ (s : State) (i : Instr), s.init = true → s.fatal = true → i.port = .evt → exec i s = .next s) ∧
  (∀ (s : State) (a : Agent), s.fatal = true → s.enabled a = false) ∧
  (∀ s : State, s.fatal = true → s.faults = [] → s.final = true)

/-! ## Commands -/

/-- INIT (40_scheduler.md R230) and the values it leaves (70_reset_and_hazards.md R541). Nothing is said of the
bytes of the ring, which R541 leaves unspecified, nor of the operands of an invalid stored retry. -/
def Obligations.InitCommand : Prop :=
  ∀ s : State,
    (s.fatal = true → exec .init s = .next { s with res := 0x00000008 }) ∧
    (s.fatal = false → s.init = true → 0 < s.cntTotal.toNat →
      exec .init s = .next { s with res := 0x00000002 }) ∧
    (s.fatal = false → s.init = false ∨ s.cntTotal = 0 → s.ringAllocated = false →
      s.drawRingAllocOk.1 = false →
      exec .init s = .next
        { s with draws := s.drawRingAllocOk.2.draws, fatal := true, init := true, res := 0x00000008 }) ∧
    (s.fatal = false → s.init = false ∨ s.cntTotal = 0 →
      s.ringAllocated = true ∨ s.drawRingAllocOk.1 = true →
      ∃ t, exec .init s = .next t ∧ t =
        { s with
          draws := if s.ringAllocated then s.draws else s.drawRingAllocOk.2.draws
          ringAllocated := true
          init := true
          out := s.out ++
            (if s.init = true ∧ s.tc.a.armed = true then [.disableTc .a] else []) ++
            (if s.init = true ∧ s.tc.b.armed = true then [.disableTc .b] else [])
          arg0 := 0
          arg1 := 0
          res := 0x00000000
          cntTotal := 0
          cntRx := 0
          inflight := ⟨false, false, false, false, false, false, false, false, false, false⟩
          progChannel := 0
          progValid := false
          txPowerCur := 0
          txPowerCurValid := false
          txPowerPend := 0
          txPowerPendValid := false
          desc :=
            let d : Desc := ⟨.idle, .immediate, 0, none, .never, 0, 0⟩
            ⟨d, d, d, d, d, d, d, d, d, d⟩
          txAckReq := false
          txSeq := 0
          txDur := 0
          ackQueued := false
          ackWait := false
          ackWaitSeq := 0
          bo := ⟨⟨false, 0⟩, ⟨false, 0⟩, ⟨false, 0⟩⟩
          retryEvt := ⟨false, false, false⟩
          retryArgs :=
            ⟨{ t.retryArgs.rx with valid := false }, { t.retryArgs.tx with valid := false },
              { t.retryArgs.noop with valid := false }⟩
          tc := ⟨⟨false, 0, 0⟩, ⟨false, 0, 0⟩⟩
          rxState := .idle
          frameHandle := 0
          curEntry := 0
          pf := PartialFrame.empty
          ring := List.replicate s.cfg.ringN ⟨.pending, 0⟩
          rdIdx := 0
          fPan := 0xFFFF
          fShort := 0xFFFF
          fExt := 0
          fAllow := 0x0F
          fPromisc := false
          fEnhAck := false
          fAckFP := false
          panCoord := false
          beaconEn := false
          dcBeacon := 0
          dcBucket := List.replicate s.cfg.nBuckets 0
          dcTotal := 0
          dcCur := 0
          dcMode := .normal
          dcRecorded := false
          diag := Vector.replicate 20 0
          ringData := t.ringData })

/-- SUBMIT_RX (R233) and doSubmitRx (R234), every result in the order of the checks. RX's param0 holds RING_N as
R231 writes it, also at RING_N = 16, which does not fit the four bits R187 gives it: the model's choice, log
entry 32. -/
def Obligations.SubmitReceive : Prop :=
  ∀ ch : Half, Guarded (.submitRx ch) ∧
    ∀ s : State, s.cfg.admitted = true → s.ready →
      (s.cfg.nChannels ≤ ch.toNat → exec (.submitRx ch) s = .next { s with res := 0x00000006 }) ∧
      (ch.toNat < s.cfg.nChannels → s.rxState.midDecode = true →
        exec (.submitRx ch) s = .next { s with res := 0x00000003 }) ∧
      (ch.toNat < s.cfg.nChannels → s.rxState.midDecode = false → s.inflight.rx = true →
        exec (.submitRx ch) s = .next { s with res := 0x00000002 }) ∧
      (ch.toNat < s.cfg.nChannels → s.rxState.midDecode = false → s.inflight.rx = false →
        s.drawAccept.1 = true →
        exec (.submitRx ch) s = .next { s.rxAccepted ch with res := 0x00000000 }) ∧
      (ch.toNat < s.cfg.nChannels → s.rxState.midDecode = false → s.inflight.rx = false →
        s.drawAccept.1 = false →
        exec (.submitRx ch) s = .next { s.rxRejected ch with res := 0x00000004 })

/-- SUBMIT_TX (R240) and doSubmitTx (R241), every result in the order of the checks. -/
def Obligations.SubmitTransmit : Prop :=
  ∀ (ch : Half) (ackReq cca : Bool), Guarded (.submitTx ch ackReq cca) ∧
    ∀ s : State, s.cfg.admitted = true → s.ready →
      let len := (s.arg1.extractLsb' 16 11 : BitVec 11).toNat
      let bad := s.cfg.nChannels ≤ ch.toNat ∨ len = 0 ∨ s.cfg.maxFrameSize < len ∨
        s.arg1.extractLsb' 27 5 ≠ (0 : BitVec 5)
      let busy := s.inflight.tx = true ∨ s.ackWait = true
      let flg := BitVec.ofNat 4 (ackReq.toNat + 2 * cca.toNat)
      (bad → exec (.submitTx ch ackReq cca) s = .next { s with res := 0x00000006 }) ∧
      (¬bad → busy → exec (.submitTx ch ackReq cca) s = .next { s with res := 0x00000002 }) ∧
      (¬bad → ¬busy → ¬s.dcPasses s.arg0 →
        exec (.submitTx ch ackReq cca) s = .next { s with res := 0x00000005 }) ∧
      (¬bad → ¬busy → s.dcPasses s.arg0 → s.drawAccept.1 = true →
        exec (.submitTx ch ackReq cca) s =
          .next { s.txAccepted ch flg s.arg0 s.arg1 with res := 0x00000000 }) ∧
      (¬bad → ¬busy → s.dcPasses s.arg0 → s.drawAccept.1 = false →
        exec (.submitTx ch ackReq cca) s =
          .next { s.txRejected ch flg s.arg0 s.arg1 with res := 0x00000004 })

/-- SUBMIT_NOOP (R245) and doSubmitNoop (R246). -/
def Obligations.SubmitNoOperation : Prop :=
  Guarded .submitNoop ∧
    ∀ s : State, s.cfg.admitted = true → s.ready →
      (s.inflight.noop = true → exec .submitNoop s = .next { s with res := 0x00000002 }) ∧
      (s.inflight.noop = false → s.drawAccept.1 = true →
        exec .submitNoop s = .next { s.noopAccepted with res := 0x00000000 }) ∧
      (s.inflight.noop = false → s.drawAccept.1 = false →
        exec .submitNoop s = .next { s.noopRejected with res := 0x00000004 })

/-- STOP_ALL (R248) with parserStop (41_rx_frame_fsm.md R363). -/
def Obligations.StopAll : Prop :=
  ∀ g : Bool, Guarded (.stopAll g) ∧
    ∀ s : State, s.ready → exec (.stopAll g) s = .next { s.stopped g with res := 0x00000000 }

/-- UPDATE_TX_POWER (R250). -/
def Obligations.UpdateTransmitPower : Prop :=
  ∀ v : Half, Guarded (.updateTxPower v) ∧
    ∀ s : State, s.ready →
      (s.inflight.tx = false → s.inflight.ack = false →
        exec (.updateTxPower v) s = .next { s with
          out := s.out ++ [.setTxPower v]
          txPowerCur := v
          txPowerCurValid := true
          txPowerPendValid := false
          res := 0x00000000 }) ∧
      (s.inflight.tx = true ∨ s.inflight.ack = true →
        exec (.updateTxPower v) s = .next { s with
          txPowerPend := v
          txPowerPendValid := true
          res := 0x00000001 })

/-- SETUP_TC (R253): an armed channel is disabled before it is armed at the sample plus ARG0. -/
def Obligations.SetupTimerCompare : Prop :=
  ∀ (ch : TcChan) (cb : Half), Guarded (.setupTc ch cb) ∧
    ∀ s : State, s.ready → exec (.setupTc ch cb) s = .next { s.tcSetUp ch cb s.arg0 with res := 0x00000000 }

/-- DC_RECORD (42_duty_cycle.md R393) and the block's own record (R392). -/
def Obligations.DutyRecord : Prop :=
  Guarded .dcRecord ∧
  (∀ s : State, s.ready →
    (2 ^ 32 - 1 < s.dcTotal.toNat + s.arg0.toNat →
      exec .dcRecord s = .next { s with res := 0x00000006 }) ∧
    (s.dcTotal.toNat + s.arg0.toNat ≤ 2 ^ 32 - 1 →
      exec .dcRecord s = .next { s.recorded s.arg0 with res := 0x00000000 })) ∧
  (∀ (s : State) (d : Word),
    (2 ^ 32 - 1 < s.dcTotal.toNat + d.toNat → s.dcRecordInternal d = s.count .dcOverflow) ∧
    (s.dcTotal.toNat + d.toNat ≤ 2 ^ 32 - 1 → s.dcRecordInternal d = s.recorded d))

/-- DC_CHECK (R394) with dcAllowed (R395). -/
def Obligations.DutyCheck : Prop :=
  Guarded .dcCheck ∧
    ∀ s : State, s.ready →
      (s.dcPasses s.arg0 → exec .dcCheck s = .next { s with res := 0x00000100 }) ∧
      (¬s.dcPasses s.arg0 → exec .dcCheck s = .next { s with res := 0x00000000 })

/-- DC_ADVANCE (R396) and SET_ROLE (R397): the role never recomputes the mode. -/
def Obligations.DutyAdvanceAndRole : Prop :=
  Guarded .dcAdvance ∧ (∀ p b : Bool, Guarded (.setRole p b)) ∧
    ∀ s : State, s.ready →
      exec .dcAdvance s = .next { s.advanced with res := 0x00000000 } ∧
      ∀ p b : Bool, exec (.setRole p b) s =
        .next { s with panCoord := p, beaconEn := b, dcBeacon := s.arg0, res := 0x00000000 }

/-- BACKOFF_REQ (43_backoff_timers.md R431) with boRequest (R430): a zero delay cancels, any other arms, an
unconsumed expiry is dropped, and no other class is touched. -/
def Obligations.BackoffRequest : Prop :=
  ∀ sel : BitVec 4, Guarded (.backoffReq sel) ∧
    ∀ s : State, s.ready →
      (2 < sel.toNat → exec (.backoffReq sel) s = .next { s with res := 0x00000006 }) ∧
      (∀ c, sel = classNumber c →
        exec (.backoffReq sel) s = .next { s.boAsked c s.arg0 with res := 0x00000000 })

/-- The frame-filter commands (44_filter_config.md R470 to R473). -/
def Obligations.FilterCommands : Prop :=
  (∀ p, Guarded (.setPan p)) ∧ (∀ a, Guarded (.setShort a)) ∧ Guarded .setExt ∧
  (∀ a p e f, Guarded (.setFilterMode a p e f)) ∧
  ∀ s : State, s.ready →
    (∀ p, exec (.setPan p) s = .next { s with fPan := p, res := 0x00000000 }) ∧
    (∀ a, exec (.setShort a) s = .next { s with fShort := a, res := 0x00000000 }) ∧
    exec .setExt s = .next { s with
      fExt := BitVec.ofNat 64 (s.arg1.toNat * 2 ^ 32 + s.arg0.toNat)
      res := 0x00000000 } ∧
    (∀ a p e f, exec (.setFilterMode a p e f) s = .next { s with
      fAllow := a
      fPromisc := p
      fEnhAck := e
      fAckFP := f
      res := 0x00000000 })

/-- The pseudo-instructions (30_encoding.md R200, R201): the effect of each, and that its meaning is what its
expansion's register writes do as moves of a schedule. That no other agent moves between those writes is the
model's choice, log entry 12. -/
def Obligations.PseudoInstructions : Prop :=
  (∀ (s : State) (i : Instr) (rest : List Move), s.cfg.admitted = true → i.expansion ≠ [i] →
    s.sched = pseudoMoves i ++ rest →
    Host.Core.run Sys2Proof.core (pseudoMoves i).length s = exec i { s with sched := rest }) ∧
  ∀ s : State, s.ready →
    (∀ sel, 2 < sel.toNat →
      exec (.backoffCancel sel) s = .next { s with arg0 := 0, res := 0x00000006 }) ∧
    (∀ sel c, sel = classNumber c →
      exec (.backoffCancel sel) s = .next { s.boAsked c 0 with arg0 := 0, res := 0x00000000 }) ∧
    exec .stopNow s = .next { s.stopped false with res := 0x00000000 } ∧
    exec .stopGraceful s = .next { s.stopped true with res := 0x00000000 } ∧
    (∀ ch cb d, exec (.tcRearm ch cb d) s = .next { s.tcSetUp ch cb d with arg0 := d, res := 0x00000000 }) ∧
    (∀ p a e, exec (.setAddr p a e) s = .next { s with
      fPan := p
      fShort := a
      fExt := e
      arg0 := BitVec.ofNat 32 e.toNat
      arg1 := BitVec.ofNat 32 (e.toNat / 2 ^ 32)
      res := 0x00000000 }) ∧
    exec .promiscOn s = .next { s with
      fAllow := 0xFF
      fPromisc := true
      fEnhAck := false
      fAckFP := false
      res := 0x00000000 }

/-- A command that returns anything but OK, DEFERRED or REJECTED, and FATAL from INIT, changes nothing but
RES (30_encoding.md R182; 60_exceptions.md R491). -/
def Obligations.RefusalsChangeOnlyRes : Prop :=
  ∀ (i : Instr) (s t : State), i.port = .cmd → i.expansion = [i] → exec i s = .next t → s.init = true →
    (t.res.extractLsb' 0 8 = (0x02 : Byte) ∨ t.res.extractLsb' 0 8 = (0x03 : Byte) ∨
      t.res.extractLsb' 0 8 = (0x05 : Byte) ∨ t.res.extractLsb' 0 8 = (0x06 : Byte) ∨
      (t.res.extractLsb' 0 8 = (0x08 : Byte) ∧ i ≠ .init)) →
    t = { s with res := t.res }

/-! ## Completion events -/

/-- The terminal events CMD_DONE, CMD_STOPPED and CMD_PREEMPTED of every principal (R260, R261, R263, R264). -/
def Obligations.TerminalEvents : Prop :=
  (∀ k h, GuardedEvt (endEvent k h)) ∧
  ∀ (s : State) (p : Slot) (k : EndKind), s.ready → p ∈ principals →
    (s.inflight.get p = false →
      exec (endEvent k (handleOf p)) s = .next (s.count .unexpectedEvent)) ∧
    (s.inflight.get p = true →
      let chain : List Slot := match p with
        | .rx => [.fsRx, .rx]
        | .tx => [.fsTx, .cca, .tx]
        | q => [q]
      let m := chain.filter fun x => s.inflight.get x
      let u := s.memberStatuses m k
      let v : State := { u with
        inflight := u.inflight.setAll false m
        cntTotal := s.cntTotal - 1
        cntRx := if p = .rx then s.cntRx - 1 else s.cntRx
        out := s.out ++ if s.cntTotal = 1 then [.powerVote .allow] else [] }
      exec (endEvent k (handleOf p)) s = .next (match p with
        | .rx => v.rxEnd
        | .tx => v.txEnd k
        | .ack => v.ackEnd k
        | _ => v))

/-- rxEnd (41_rx_frame_fsm.md R362), txEnd (40_scheduler.md R265), ackEnd (R267) and the pending transmit
power (R251). -/
def Obligations.CommandEnds : Prop :=
  ∀ (s : State) (k : EndKind),
    s.rxEnd =
      (if s.rxState.midDecode = true then { s.discard .aborted with rxState := .idle }
        else { s with rxState := .idle }) ∧
    s.applyPendingPower =
      (if s.txPowerPendValid = true ∧ s.inflight.tx = false ∧ s.inflight.ack = false then
        { s with
          out := s.out ++ [.setTxPower s.txPowerPend]
          txPowerCur := s.txPowerPend
          txPowerCurValid := true
          txPowerPendValid := false }
        else s) ∧
    s.txEnd k =
      (if k = .done ∧ s.desc.tx.status = .done then
        (if s.txAckReq = true then
          { s.dcRecordInternal s.txDur with ackWait := true, ackWaitSeq := s.txSeq }
          else s.dcRecordInternal s.txDur)
        else s).applyPendingPower ∧
    s.ackEnd k =
      (if k = EndKind.done ∧ s.desc.ack.status = CmdStatus.done ∧ 0 < s.cfg.ackAirtime.toNat then
        ({ s with ackQueued := false } : State).dcRecordInternal s.cfg.ackAirtime
        else { s with ackQueued := false }).applyPendingPower

/-- The statuses a terminal event leaves in a chain (R262): exactly the lists the rule allows, and nothing
but the chain's statuses is written. -/
def Obligations.MemberStatuses : Prop :=
  let legal := fun (k : EndKind) (st : List CmdStatus) =>
    (∀ x ∈ st, x ≠ CmdStatus.active) ∧
      (∀ (i j : Nat) (x : CmdStatus), i < j → st[i]? = some x → x ≠ CmdStatus.done → ∀ y, st[j]? = some y → y = CmdStatus.idle) ∧
      (k ≠ EndKind.done → st.getLast? ≠ some CmdStatus.done)
  (∀ (n : Nat) (k : EndKind) (d : MemberDraw), 0 < n →
    (chainStatuses n k d).length = n ∧ legal k (chainStatuses n k d)) ∧
  (∀ (k : EndKind) (st : List CmdStatus), st ≠ [] → legal k st →
    ∃ d, chainStatuses st.length k d = st) ∧
  (∀ (s : State) (m : List Slot) (k : EndKind), m.Nodup →
    let t := s.memberStatuses m k
    let st := chainStatuses m.length k s.drawMembers.1
    t = { s with draws := s.drawMembers.2.draws, desc := t.desc } ∧
      (∀ i x, m[i]? = some x → t.desc.get x = { s.desc.get x with status := st.getD i .idle }) ∧
      (∀ x, x ∉ m → t.desc.get x = s.desc.get x))

/-- TC_FIRED (43_backoff_timers.md R445). -/
def Obligations.TimerCompareFired : Prop :=
  (∀ h, GuardedEvt (.evtTcFired h)) ∧
  ∀ (s : State) (ch : TcChan), s.ready →
    ((s.tc.get ch).armed = false →
      exec (.evtTcFired (handleOf ch.slot)) s = .next (s.count .unexpectedEvent)) ∧
    ((s.tc.get ch).armed = true →
      exec (.evtTcFired (handleOf ch.slot)) s = .next { s with
        tc := s.tc.set ch { s.tc.get ch with armed := false }
        out := s.out ++ [.timerCallback ch (s.tc.get ch).cb] })

/-! ## Frame events -/

/-- PREAMBLE (41_rx_frame_fsm.md R305). -/
def Obligations.PreambleEvent : Prop :=
  GuardedEvt (.evtPreamble 2 0) ∧
  ∀ s : State, s.ready →
    (s.inflight.rx = false → exec (.evtPreamble 2 0) s = .next (s.count .unexpectedEvent)) ∧
    (s.inflight.rx = true → s.rxState.midDecode = false →
      exec (.evtPreamble 2 0) s = .next { s with
        pf := PartialFrame.empty, frameHandle := 2, curEntry := s.rdIdx, rxState := .started }) ∧
    (s.inflight.rx = true → s.rxState.midDecode = true →
      let u := (s.discard .aborted).count .unexpectedEvent
      exec (.evtPreamble 2 0) s = .next { u with
        pf := PartialFrame.empty, frameHandle := 2, curEntry := u.rdIdx, rxState := .started })

/-- FRAME_OK (R345): in IDLE, in HALTED, and mid-decode the due stages, the dispatch, then IDLE. -/
def Obligations.FrameOkEvent : Prop :=
  GuardedEvt (.evtFrameOk 2 0) ∧
  ∀ s : State, s.ready →
    (s.rxState = .idle → exec (.evtFrameOk 2 0) s = .next
      (if (s.entry s.rdIdx).status = .full then (s.count .unexpectedEvent).flushEntry s.rdIdx
        else s.count .unexpectedEvent)) ∧
    (s.rxState = .halted → exec (.evtFrameOk 2 0) s = .next { s with rxState := .idle }) ∧
    (s.rxState.midDecode = true →
      let u := s.runDueStages
      let v := if u.rxState = .trailer then u.trailerAndDispatch else u
      exec (.evtFrameOk 2 0) s = .next (if v.rxState = .halted then { v with rxState := .idle } else v))

/-- BAD_CRC (R360) and BUF_FULL (R361). -/
def Obligations.AbnormalFrameEnds : Prop :=
  GuardedEvt (.evtBadCrc 2 0) ∧ GuardedEvt (.evtBufFull 2 0) ∧
  ∀ s : State, s.ready →
    (s.rxState = .idle → exec (.evtBadCrc 2 0) s = .next
      (if (s.entry s.rdIdx).status = .full then (s.count .unexpectedEvent).flushEntry s.rdIdx
        else s.count .unexpectedEvent)) ∧
    (s.rxState = .idle → exec (.evtBufFull 2 0) s = .next (s.count .bufferFull)) ∧
    (s.rxState = .halted → exec (.evtBadCrc 2 0) s = .next { s with rxState := .idle }) ∧
    (s.rxState = .halted → exec (.evtBufFull 2 0) s = .next { s with rxState := .idle }) ∧
    (s.rxState.midDecode = true →
      exec (.evtBadCrc 2 0) s = .next { s.discard .crcBad with rxState := .idle }) ∧
    (s.rxState.midDecode = true →
      exec (.evtBufFull 2 0) s = .next { s.discard .bufferFull with rxState := .idle })

/-! ## The receive machine -/

/-- discard (R303) with cancelAck (R304), flushEntry (R302), and the saturating counters (10_state.md R55). -/
def Obligations.DiscardAndFlush : Prop :=
  ∀ (s : State) (r : DiagReason) (k : BitVec 4),
    s.count r = { s with
      diag := s.diag.set r.index.val
        (if s.diag.get r.index = 0xFFFF then 0xFFFF
          else BitVec.ofNat 16 ((s.diag.get r.index).toNat + 1)) r.index.isLt } ∧
    s.flushEntry k = { s with
      ring := s.ring.set k.toNat ⟨.pending, 0⟩
      rdIdx := if s.rdIdx = k then BitVec.ofNat 4 ((k.toNat + 1) % s.cfg.ringN) else s.rdIdx
      out := s.out ++ [.flushEntry k] } ∧
    s.cancelAck = { s with
      out := s.out ++ (if s.pf.ackArmed = true ∧ s.ackQueued = true then [.abort .ack] else [])
      ackQueued := if s.pf.ackArmed = true then false else s.ackQueued
      pf := { s.pf with ackArmed := false } } ∧
    s.discard r = { ({ s.cancelAck with
      pf := { s.cancelAck.pf with valid := false } }.flushEntry s.curEntry).count r with rxState := .halted }

/-- HDR step (R306), with the header quantities (R307), the checks in order (R308) and the truncated entries
(R365). -/
def Obligations.HeaderStep : Prop :=
  ∀ s : State,
    let k := s.curEntry
    let n := s.rxCount k
    let b0 := s.ringByte k 0
    let phrLen := b0.toNat % 8 * 256 + (s.ringByte k 1).toNat
    let fcsLen := if b0.getLsbD 4 then 2 else 4
    let raw : Half := s.ringByte k 3 ++ s.ringByte k 2
    let fcf := if s.cfg.frameVersion.toNat < 2 then raw &&& 0xFCFF else raw
    let seqLen := if fcf.getLsbD 8 then 0 else 1
    let addrLen := addrFieldLen s.cfg.frameVersion fcf
    (s.rxState = .started →
      (s.enabled .parser = true ↔
        s.init = true ∧ s.fatal = false ∧ ((s.entry k).status = .full ∨ (4 ≤ n ∧ 4 + seqLen ≤ n))) ∧
      s.agentStep .parser = s.hdrStep) ∧
    s.hdrStep =
      if n < 2 then s.discard .length
      else if b0.getLsbD 7 = true then s.discard .modeSwitch
      else if n < 4 then s.discard .length
      else if n < 4 + seqLen then s.discard .length
      else if s.cfg.maxFrameSize < phrLen ∨ phrLen < fcsLen ∨ phrLen - fcsLen < 2 + seqLen then
        s.discard .length
      else if fcf.extractLsb' 12 2 ≠ s.cfg.frameVersion then s.discard .version
      else if fcf.extractLsb' 10 2 = (1 : BitVec 2) ∨ fcf.extractLsb' 14 2 = (1 : BitVec 2) then
        s.discard .addrMode
      else if fcf.getLsbD 3 = true ∧ s.cfg.securityEnabled = false then s.discard .secUnsupported
      else if phrLen - fcsLen < 2 + seqLen + addrLen then s.discard .length
      else if s.drawAllocOk.1 = true then
        { s with
          draws := s.drawAllocOk.2.draws
          pf := { s.pf with
            valid := true
            phrLen := BitVec.ofNat 11 phrLen
            fcsLen := BitVec.ofNat 3 fcsLen
            mpduLen := BitVec.ofNat 11 (phrLen - fcsLen)
            fcf := fcf
            seqPresent := !fcf.getLsbD 8
            seq := if fcf.getLsbD 8 then 0 else s.ringByte k 4
            dstMode := fcf.extractLsb' 10 2
            srcMode := fcf.extractLsb' 14 2
            dstPanPresent := (panPresence s.cfg.frameVersion fcf).1
            srcPanPresent := (panPresence s.cfg.frameVersion fcf).2
            addrLen := BitVec.ofNat 5 addrLen
            mhrBase := BitVec.ofNat 11 (2 + seqLen + addrLen)
            buf := List.replicate (phrLen - fcsLen) 0 }
          rxState := .addr }
      else { s with draws := s.drawAllocOk.2.draws }.discard .allocFail

/-- The reference table of address-field lengths (R310) and the PAN ID presence tables behind it (R311, R312):
destination mode, source mode, PAN ID compression, then presence (destination, source) and length for frame
version 2, then the same for versions 0 and 1. -/
def Obligations.AddressFieldTable : Prop :=
  ∀ row ∈ (
    [ (0, 0, false, (false, false, 0), (false, false, 0)), (0, 0, true, (true, false, 2), (false, false, 0)),
      (2, 0, false, (true, false, 4), (true, false, 4)), (2, 0, true, (false, false, 2), (true, false, 4)),
      (3, 0, false, (true, false, 10), (true, false, 10)), (3, 0, true, (false, false, 8), (true, false, 10)),
      (0, 2, false, (false, true, 4), (false, true, 4)), (0, 2, true, (false, false, 2), (false, true, 4)),
      (0, 3, false, (false, true, 10), (false, true, 10)) ] ++
    [ (0, 3, true, (false, false, 8), (false, true, 10)),
      (2, 2, false, (true, true, 8), (true, true, 8)), (2, 2, true, (true, false, 6), (true, false, 6)),
      (2, 3, false, (true, true, 14), (true, true, 14)), (2, 3, true, (true, false, 12), (true, false, 12)),
      (3, 2, false, (true, true, 14), (true, true, 14)), (3, 2, true, (true, false, 12), (true, false, 12)),
      (3, 3, false, (true, false, 18), (true, true, 20)),
      (3, 3, true, (false, false, 16), (true, false, 18)) ] :
      List (BitVec 2 × BitVec 2 × Bool × (Bool × Bool × Nat) × (Bool × Bool × Nat))),
    ∀ f : Half, f.extractLsb' 10 2 = row.1 → f.extractLsb' 14 2 = row.2.1 → f.getLsbD 6 = row.2.2.1 →
      (panPresence 2 f, addrFieldLen 2 f) =
        ((row.2.2.2.1.1, row.2.2.2.1.2.1), row.2.2.2.1.2.2) ∧
      ∀ v : BitVec 2, v.toNat < 2 →
        (panPresence v f, addrFieldLen v f) =
          ((row.2.2.2.2.1, row.2.2.2.2.2.1), row.2.2.2.2.2.2)

/-- ADDR step (R313). A frame in ADDR has its buffer sized for its header and its PAN IDs 0 (the invariant
FrameInv), so the header bytes replace the first mhrBase bytes of the buffer, and a PAN ID the frame does not
carry is 0. -/
def Obligations.AddressStep : Prop :=
  ∀ s : State, s.FrameInv → s.rxState = .addr →
    let k := s.curEntry
    let base := s.pf.mhrBase.toNat
    let width := fun m : BitVec 2 => if m = 2 then 2 else if m = 3 then 8 else 0
    let o1 := 4 + if s.pf.seqPresent = true then 1 else 0
    let o2 := o1 + if s.pf.dstPanPresent = true then 2 else 0
    let o3 := o2 + width s.pf.dstMode
    let o4 := o3 + if s.pf.srcPanPresent = true then 2 else 0
    let u : State := { s with pf := { s.pf with
      dstPan := if s.pf.dstPanPresent = true then s.ringByte k (o1 + 1) ++ s.ringByte k o1 else 0
      dstAddr := BitVec.ofNat 64 (leNat (s.ringBytes k o2 (width s.pf.dstMode)))
      srcPan := if s.pf.srcPanPresent = true then s.ringByte k (o3 + 1) ++ s.ringByte k o3 else 0
      srcAddr := BitVec.ofNat 64 (leNat (s.ringBytes k o4 (width s.pf.srcMode)))
      buf := s.ringBytes k 2 base ++ s.pf.buf.drop base } }
    (s.enabled .parser = true ↔
      s.init = true ∧ s.fatal = false ∧ ((s.entry k).status = .full ∨ 2 + base ≤ s.rxCount k)) ∧
    s.agentStep .parser = s.addrStep ∧
    (s.rxCount k < 2 + base → s.addrStep = s.discard .length) ∧
    (2 + base ≤ s.rxCount k → u.filterPass = false → s.addrStep = u.discard .filter) ∧
    (2 + base ≤ s.rxCount k → u.filterPass = true →
      let v := if u.ackNeeded = true then u.submitImmAck else u
      s.addrStep = { v with
        pf := { v.pf with mhrLen := s.pf.mhrBase }
        rxState := if s.pf.fcf.getLsbD 3 then .secHdr else .payload })

/-- The frame filter (R314) and the acknowledgment predicates (R320). A destination mode 1 never reaches the
filter (R308 check 4). -/
def Obligations.FilterAndAckPredicates : Prop :=
  ∀ s : State,
    let t := (s.pf.fcf.extractLsb' 0 3 : BitVec 3)
    (s.pf.dstMode ≠ 1 →
      (s.filterPass = true ↔
        s.fPromisc = true ∨
          (s.fAllow.getLsbD t.toNat = true ∧
            ¬(s.pf.dstPanPresent = true ∧ s.pf.dstPan ≠ s.fPan ∧ s.pf.dstPan ≠ 0xFFFF) ∧
            ¬(s.pf.dstMode = 2 ∧ s.pf.dstAddr ≠ s.fShort.setWidth 64 ∧ s.pf.dstAddr ≠ 0xFFFF) ∧
            ¬(s.pf.dstMode = 3 ∧ s.pf.dstAddr ≠ s.fExt) ∧
            ¬(s.pf.dstMode = 0 ∧ t ≠ 0 ∧ t ≠ 2 ∧
              ¬(s.panCoord = true ∧ (s.pf.srcPanPresent = false ∨ s.pf.srcPan = s.fPan)))))) ∧
    (s.enhAckRequired = true ↔
      s.fEnhAck = true ∧ s.pf.fcf.getLsbD 5 = true ∧ s.fPromisc = false ∧ (t = 1 ∨ t = 3)) ∧
    (s.ackNeeded = true ↔
      s.pf.fcf.getLsbD 5 = true ∧ s.pf.seqPresent = true ∧ s.fPromisc = false ∧ t ≠ 2 ∧
        ¬s.enhAckRequired = true)

/-- submitImmAck (R321) with ackAccepted (R322) and the bytes of the immediate ACK (30_encoding.md R203), and
submitEnhAck (R353). -/
def Obligations.AckSubmissions : Prop :=
  ∀ s : State,
    let fp := s.fAckFP.toNat
    let seq := s.pf.seq.toNat
    let ackDesc := fun (start p0 p1 : Word) => (⟨.idle, .absTime, start, none, .never, p0, p1⟩ : Desc)
    (s.inflight.ack = true → s.submitImmAck = s.count .ackRejected ∧ s.submitEnhAck = s.count .ackRejected) ∧
    (s.inflight.ack = false →
      let d := s.drawAckStart
      let u : State := { s with
        draws := d.2.drawAccept.2.draws
        desc := { s.desc with
          ack := ackDesc d.1 (BitVec.ofNat 32 (seq + 256 * fp))
            (BitVec.ofNat 32 (2 + 16 * fp + 256 * (16 * s.cfg.frameVersion.toNat) + 65536 * seq)) }
        out := s.out ++ [.submit .ack .ack 0x70 (some d.1)] }
      s.submitImmAck =
        if d.2.drawAccept.1 = true then
          { u with
            out := u.out ++ s.holdVote
            inflight := { s.inflight with ack := true }
            cntTotal := s.cntTotal + 1
            ackQueued := true
            pf := { s.pf with ackArmed := true } }
        else u.count .ackRejected) ∧
    (s.inflight.ack = false →
      let e := s.drawEnhAckIEs
      let d := e.2.drawAckStart
      let u : State := { s with
        draws := d.2.drawAccept.2.draws
        desc := { s.desc with
          ack := ackDesc d.1 (BitVec.ofNat 32 (seq + 256 * fp + 512)) (BitVec.ofNat 32 e.1.length) }
        out := s.out ++ [.submit .ack .ack 0x70 (some d.1)] }
      s.submitEnhAck =
        if d.2.drawAccept.1 = true then
          { u with
            out := u.out ++ s.holdVote
            inflight := { s.inflight with ack := true }
            cntTotal := s.cntTotal + 1
            ackQueued := true
            pf := { s.pf with enhAckSubmitted := true } }
        else u.count .ackRejected)

/-- SECHDR step (R331), with the auxiliary header's layout (R330) and the MIC lengths (R332). R331's trigger writes
auxLen of the byte as it stands; that the enabling clause takes it with bit 5 read as 0 below frame version 2 is
the model's reading, log entry 33. -/
def Obligations.SecurityStep : Prop :=
  ∀ s : State, s.FrameInv → s.rxState = .secHdr →
    let k := s.curEntry
    let n := s.rxCount k
    let b := s.pf.mhrBase.toNat
    let mpdu := s.pf.mpduLen.toNat
    let raw := s.ringByte k (2 + b)
    let sc := if s.cfg.frameVersion.toNat < 2 then raw &&& 0xDF else raw
    let level := sc.toNat % 8
    let mode := sc.toNat / 8 % 4
    let fc := if sc.getLsbD 5 then 0 else 4
    let src := [0, 0, 4, 8].getD mode 0
    let a := 1 + fc + [0, 1, 5, 9].getD mode 0
    let mic := [0, 4, 8, 16].getD (level % 4) 0
    let o := 2 + b + 1
    (s.enabled .parser = true ↔
      s.init = true ∧ s.fatal = false ∧
        ((s.entry k).status = .full ∨ 2 + mpdu ≤ n ∨ (3 + b ≤ n ∧ 2 + b + a ≤ n))) ∧
    s.agentStep .parser = s.secHdrStep ∧
    s.secHdrStep =
      if mpdu < b + 1 then s.discard .secLength
      else if n < 2 + b + 1 then s.discard .length
      else if level = 0 then s.discard .secLevelZero
      else if s.cfg.keyIdModeValid.getLsbD mode = false then s.discard .secKeyIdMode
      else if mpdu < b + a + mic then s.discard .secLength
      else if n < 2 + b + a then s.discard .length
      else { s with
        pf := { s.pf with
          frameCounter := if sc.getLsbD 5 then 0 else BitVec.ofNat 32 (leNat (s.ringBytes k o 4))
          keySource := BitVec.ofNat 64 (leNat (s.ringBytes k (o + fc) src))
          keyIndex := if mode = 0 then 0 else s.ringByte k (o + fc + src)
          secCtl := sc
          keyIdMode := BitVec.ofNat 2 mode
          micLen := BitVec.ofNat 5 mic
          buf := s.pf.buf.take b ++ s.ringBytes k (2 + b) a ++ s.pf.buf.drop (b + a)
          mhrLen := BitVec.ofNat 11 (b + a) }
        rxState := .payload }

/-- PAYLOAD step (R340). -/
def Obligations.PayloadStep : Prop :=
  ∀ s : State, s.FrameInv → s.rxState = .payload →
    let k := s.curEntry
    let m := s.pf.mhrLen.toNat
    let mpdu := s.pf.mpduLen.toNat
    (s.enabled .parser = true ↔
      s.init = true ∧ s.fatal = false ∧ ((s.entry k).status = .full ∨ 2 + mpdu ≤ s.rxCount k)) ∧
    s.agentStep .parser = s.payloadStep ∧
    s.payloadStep =
      if s.rxCount k < 2 + mpdu then s.discard .length
      else { s with
        pf := { s.pf with
          buf := s.pf.buf.take m ++ s.ringBytes k (2 + m) (mpdu - m)
          payloadLen := BitVec.ofNat 11 (mpdu - m) }
        rxState := .trailer }

/-- The stages run in order (R300, R301): each passes to the next or halts; FRAME_OK runs all that are due
(R346), and leaves no frame mid-decode, none held and at most one delivered (R345, R354). -/
def Obligations.StageOrder : Prop :=
  (∀ s : State,
    let t := s.stageStep
    (s.rxState = .started → t.rxState = .addr ∨ t.rxState = .halted) ∧
    (s.rxState = .addr →
      t.rxState = (if s.pf.fcf.getLsbD 3 then .secHdr else .payload) ∨ t.rxState = .halted) ∧
    (s.rxState = .secHdr → t.rxState = .payload ∨ t.rxState = .halted) ∧
    (s.rxState = .payload → t.rxState = .trailer ∨ t.rxState = .halted) ∧
    (s.rxState = .idle ∨ s.rxState = .trailer ∨ s.rxState = .halted → t = s)) ∧
  (∀ (s : State) (n : Nat), 4 ≤ n → State.stageStep^[n] s = s.runDueStages) ∧
  (∀ s : State, s.ready → s.rxState.midDecode = true →
    ∃ t ms, exec (.evtFrameOk 2 0) s = .next t ∧ t.rxState = .idle ∧ t.pf.valid = false ∧
      t.out = s.out ++ ms ∧
      (ms.filter fun m => match m with | .deliver _ => true | _ => false).length ≤ 1)

/-- trailerAndDispatch (R350). -/
def Obligations.TrailerDispatch : Prop :=
  ∀ s : State,
    let t0 := 2 + s.pf.mpduLen.toNat
    let u : State := { s with pf := { s.pf with
      rssi := s.ringByte s.curEntry t0
      timestamp := BitVec.ofNat 32 (leNat (s.ringBytes s.curEntry (t0 + 1) 4))
      lqi := Config.lqiOf (s.ringByte s.curEntry t0) } }
    let hand := fun v : State => (if v.enhAckRequired = true then v.submitEnhAck else v).deliver
    let isAck := s.pf.fcf.extractLsb' 0 3 = (2 : BitVec 3)
    (s.rxCount s.curEntry < t0 + 5 → s.trailerAndDispatch = s.discard .unexpectedEvent) ∧
    (t0 + 5 ≤ s.rxCount s.curEntry → isAck → s.trailerAndDispatch = u.ackConsume) ∧
    (t0 + 5 ≤ s.rxCount s.curEntry → ¬isAck → s.pf.fcf.getLsbD 9 = false →
      s.trailerAndDispatch = hand u) ∧
    (t0 + 5 ≤ s.rxCount s.curEntry → ¬isAck → s.pf.fcf.getLsbD 9 = true →
      s.trailerAndDispatch =
        match ieWalkBytes s.pf.buf s.pf.mhrLen.toNat (s.pf.mpduLen.toNat - s.pf.micLen.toNat)
          (s.pf.fcf.getLsbD 3) with
        | .located n => hand { u with pf := { u.pf with ieLen := BitVec.ofNat 11 n } }
        | .malformed => u.discard .ieMalformed
        | .zeroLen => u.discard .ieZeroLen)

/-- ackConsume (R351) and deliver (R354) with the frame record (30_encoding.md R194). -/
def Obligations.ConsumeAndDeliver : Prop :=
  ∀ s : State,
    let closed := fun (ms : List OutMsg) => ({ s with
      pf := { s.pf with valid := false }
      ring := s.ring.set s.curEntry.toNat ⟨.pending, 0⟩
      rdIdx := if s.rdIdx = s.curEntry then BitVec.ofNat 4 ((s.curEntry.toNat + 1) % s.cfg.ringN) else s.rdIdx
      out := s.out ++ ms ++ [.flushEntry s.curEntry]
      rxState := .idle } : State)
    let matched := s.ackWait = true ∧ s.pf.seqPresent = true ∧ s.pf.seq = s.ackWaitSeq
    (matched → s.ackConsume =
      { closed [.ackReceived s.pf.seq (s.pf.fcf.getLsbD 4)] with ackWait := false }) ∧
    (¬matched → s.ackConsume = s.discard .ackUnmatched) ∧
    s.deliver = closed [.deliver {
      handle := s.frameHandle, fcf := s.pf.fcf, type := s.pf.fcf.extractLsb' 0 3,
      framePending := s.pf.fcf.getLsbD 4, ackRequest := s.pf.fcf.getLsbD 5,
      seqPresent := s.pf.seqPresent, seq := s.pf.seq, dstMode := s.pf.dstMode, srcMode := s.pf.srcMode,
      dstPanPresent := s.pf.dstPanPresent, dstPan := s.pf.dstPan, dstAddr := s.pf.dstAddr,
      srcPanPresent := s.pf.srcPanPresent, srcPan := s.pf.srcPan, srcAddr := s.pf.srcAddr,
      secured := s.pf.fcf.getLsbD 3, secCtl := s.pf.secCtl, frameCounter := s.pf.frameCounter,
      keyIdMode := s.pf.keyIdMode, keySource := s.pf.keySource, keyIndex := s.pf.keyIndex,
      micLen := s.pf.micLen, mhrLen := s.pf.mhrLen, ieLen := s.pf.ieLen, payloadLen := s.pf.payloadLen,
      mpdu := s.pf.buf, rssi := s.pf.rssi, lqi := s.pf.lqi, timestamp := s.pf.timestamp,
      enhAckSubmitted := s.pf.enhAckSubmitted }]

/-- The walk over information elements (R352): it is the loop of the rule, step by step, in the header part and
in the payload part, with its exits and its four ways to be malformed; well-formed header IEs are all located,
up to the end of the frame or a header termination; a list of none is the zero-length block; and nothing outside
the walked bytes is ever counted. In `walk`, `o` and `n` are the rule's o and ieLen, `header` is part = HEADER. -/
def Obligations.InformationElementWalk : Prop :=
  let enc := fun (ies : List (Byte × List Byte)) =>
    ies.flatMap fun e =>
      [BitVec.ofNat 8 (e.2.length + 128 * (e.1.toNat % 2)), BitVec.ofNat 8 (e.1.toNat / 2)] ++ e.2
  (∀ (pre post : List Byte) (ies : List (Byte × List Byte)) (secured : Bool),
    (∀ e ∈ ies, e.1 ≠ 0x7E ∧ e.1 ≠ 0x7F ∧ e.2.length < 128) →
    ieWalkBytes (pre ++ enc ies ++ post) pre.length (pre.length + (enc ies).length) secured =
        (if ies = [] then .zeroLen else .located (enc ies).length) ∧
    ∀ rest : Nat,
      ieWalkBytes (pre ++ enc ies ++ [0x80, 0x3F] ++ post) pre.length
          (pre.length + (enc ies).length + 2 + rest) secured =
        (if ies = [] then .zeroLen else .located (enc ies).length)) ∧
  (∀ (buf : List Byte) (start stop : Nat) (secured : Bool) (n : Nat),
    ieWalkBytes buf start stop secured = .located n → start < stop ∧ 0 < n ∧ n ≤ stop - start) ∧
  (∀ (buf : List Byte) (start stop : Nat) (secured : Bool),
    ∃ walk : Nat → Nat → Bool → IeResult,
      ieWalkBytes buf start stop secured = walk start 0 true ∧
      ∀ (o n : Nat) (header : Bool),
        let d := (buf.getD o 0).toNat + 256 * (buf.getD (o + 1) 0).toNat
        let exit : IeResult := if n = 0 then .zeroLen else .located n
        walk o n header =
          if o = stop then exit
          else if stop < o + 2 then .malformed
          else if header = true then
            if d / 2 ^ 15 ≠ 0 then .malformed
            else if stop < o + 2 + d % 2 ^ 7 then .malformed
            else if d / 2 ^ 7 % 2 ^ 8 = 0x7E then
              if secured = true then exit else walk (o + 2 + d % 2 ^ 7) n false
            else if d / 2 ^ 7 % 2 ^ 8 = 0x7F then exit
            else walk (o + 2 + d % 2 ^ 7) (n + 2 + d % 2 ^ 7) true
          else if d / 2 ^ 15 ≠ 1 then .malformed
          else if stop < o + 2 + d % 2 ^ 11 then .malformed
          else if d / 2 ^ 11 % 2 ^ 4 = 0xF then exit
          else walk (o + 2 + d % 2 ^ 11) (n + 2 + d % 2 ^ 11) false)

/-- PARSER is enabled as the table says (R364). In the SECHDR row the table's auxLen is taken of the security control
byte with bit 5 read as 0 below frame version 2: the model's reading, log entry 33. -/
def Obligations.ParserEnabled : Prop :=
  ∀ s : State,
    let k := s.curEntry
    let n := s.rxCount k
    let isFull := (s.entry k).status = .full
    let raw : Half := s.ringByte k 3 ++ s.ringByte k 2
    let seqLen := if ¬s.cfg.frameVersion.toNat < 2 ∧ raw.getLsbD 8 = true then 0 else 1
    let rawSc := s.ringByte k (2 + s.pf.mhrBase.toNat)
    let sc := if s.cfg.frameVersion.toNat < 2 then rawSc &&& 0xDF else rawSc
    let aux := 1 + (if sc.getLsbD 5 then 0 else 4) + [0, 1, 5, 9].getD (sc.toNat / 8 % 4) 0
    (s.enabled .parser = true ↔
      s.init = true ∧ s.fatal = false ∧
        ((s.rxState = .started ∧ (isFull ∨ (4 ≤ n ∧ 4 + seqLen ≤ n))) ∨
          (s.rxState = .addr ∧ (isFull ∨ 2 + s.pf.mhrBase.toNat ≤ n)) ∨
          (s.rxState = .secHdr ∧
            (isFull ∨ 2 + s.pf.mpduLen.toNat ≤ n ∨
              (3 + s.pf.mhrBase.toNat ≤ n ∧ 2 + s.pf.mhrBase.toNat + aux ≤ n))) ∨
          (s.rxState = .payload ∧ (isFull ∨ 2 + s.pf.mpduLen.toNat ≤ n))))

/-! ## Timers -/

/-- The steps of the timer agents (43_backoff_timers.md R432, R441), taken exactly when enabled, and what weak
fairness of the agents gives (R437; 60_exceptions.md R511): a rejected submission is retried, it is in flight
once the radio accepts it and the class is not busy, and the wait for an acknowledgment ends. The host's cancel
or success of the class, or its INIT, ends the retry instead; a host that arms the class or submits it again
without end may put it off without end, since that drops an expiry not yet consumed (R430). The schedule is the
model's, log entry 7; that a scheduled agent that is not enabled is refused by name is the model's choice, log
entry 20; time is not modelled, log entry 21. -/
def Obligations.TimerSteps : Prop :=
  (∀ (s : State) (rest : List Move), s.cfg.admitted = true →
    let u : State := { s with sched := rest }
    (∀ c, s.sched = .agent (.boTimer c) :: rest → s.ready → (s.bo.get c).running = true →
      step s = .next { u with
        bo := s.bo.set c { s.bo.get c with running := false }
        retryEvt := s.retryEvt.set c true
        out := s.out ++ [.backoffExpired c] }) ∧
    (s.sched = .agent .ackTimer :: rest → s.ready → s.ackWait = true →
      step s = .next { u with ackWait := false, out := s.out ++ [.ackNotReceived] }) ∧
    (∀ a, s.sched = .agent a :: rest →
      (s.enabled a = true → step s = .next (u.agentStep a)) ∧
      (s.enabled a = false → step s = .refused .agentNotEnabled)) ∧
    (∀ c, (s.enabled (.boTimer c) = true ↔ s.ready ∧ (s.bo.get c).running = true) ∧
      (s.enabled (.retry c) = true ↔ s.ready ∧ s.retryEvt.get c = true)) ∧
    (s.enabled .ackTimer = true ↔ s.ready ∧ s.ackWait = true)) ∧
  (∀ (s t : State) (c : OpClass) (i : Instr), s.cfg.admitted = true → s.ready → submission c i →
    exec i s = .next t → t.res = 0x00000004 → t.awaitsRetry c) ∧
  (∀ (r : Run) (c : OpClass) (n : Nat), r.valid → r.weaklyFair (.boTimer c) → r.weaklyFair (.retry c) →
    (r.state n).awaitsRetry c →
    let putOff := ∀ m, ∃ k, m ≤ k ∧ r.rearms k c
    ((∃ k, n ≤ k ∧ (r.retries k c ∨ r.settles k c)) ∨ putOff) ∧
    ∀ m, (∀ k, n ≤ k → r.retries k c → (r.state k).retryClear c) →
      (∀ k, m ≤ k → r.retries k c → (r.state k).drawAccept.1 = true) →
      (∃ k, n ≤ k ∧ r.retries k c ∧ (r.state (k + 1)).inflight.get c.slot = true) ∨
        (∃ k, n ≤ k ∧ r.settles k c) ∨ putOff) ∧
  ∀ (r : Run) (n : Nat), r.valid → r.weaklyFair .ackTimer → (r.state n).ready →
    (r.state n).ringAllocated = true → ∃ k, n ≤ k ∧ (r.state k).ackWait = false

/-- RETRY(c) (R435) and its outcome (R436): no RES is written. RX's param0 at RING_N = 16 is the model's choice,
log entry 32. -/
def Obligations.RetrySteps : Prop :=
  ∀ (s : State) (c : OpClass), s.cfg.admitted = true →
    let u : State := { s with retryEvt := s.retryEvt.set c false }
    let a := s.retryArgs.get c
    let dropped : State :=
      { u with retryArgs := s.retryArgs.set c { a with valid := false } }.count .retryDropped
    let t := s.agentStep (.retry c)
    (s.enabled (.retry c) = true ↔ s.init = true ∧ s.fatal = false ∧ s.retryEvt.get c = true) ∧
    (a.valid = false → t = u) ∧
    (a.valid = true →
      t = match c with
        | .rx =>
          if s.rxState.midDecode = true ∨ s.inflight.rx = true then dropped
          else if s.drawAccept.1 = true then u.rxAccepted a.channel else u.rxRejected a.channel
        | .tx =>
          if s.inflight.tx = true ∨ s.ackWait = true ∨ s.dcAllowed a.arg0 = false then dropped
          else if s.drawAccept.1 = true then u.txAccepted a.channel a.flg a.arg0 a.arg1
          else u.txRejected a.channel a.flg a.arg0 a.arg1
        | .noop =>
          if s.inflight.noop = true then dropped
          else if s.drawAccept.1 = true then u.noopAccepted else u.noopRejected)

/-! ## Registers and the ring -/

/-- The register map (20_memory.md R106): what a host read of every listed register returns. -/
def Obligations.RegisterReads : Prop :=
  ∀ (s : State) (off : BitVec 12) (rest : List Move), s.cfg.admitted = true → s.reads off rest →
    let u : State := { s with sched := rest }
    let gives := fun v : Nat => step s = .next { u with busData := BitVec.ofNat 32 v }
    let b := Bool.toNat
    (off = 0x010 →
      gives (b s.init + 2 * b s.fatal + 4 * b (s.init && !s.fatal && decide (s.cntTotal = 0)) +
        8 * b (!s.faults.isEmpty))) ∧
    (s.init = false → s.fatal = false → off ≠ 0x010 → s.regListed off.toNat = true →
      step s = .next { u with draws := s.drawUnspecified.2.draws, busData := s.drawUnspecified.1 }) ∧
    (s.ready →
      (∀ v, (off.toNat, v) ∈
        [ (0x000, 0), (0x004, s.arg0.toNat), (0x008, s.arg1.toNat), (0x00C, s.res.toNat),
          (0x014, s.cntTotal.toNat + 2 ^ 8 * s.cntRx.toNat),
          (0x018, b s.inflight.setup + 2 * b s.inflight.fsRx + 4 * b s.inflight.rx + 8 * b s.inflight.fsTx +
            16 * b s.inflight.cca + 32 * b s.inflight.tx + 64 * b s.inflight.ack + 128 * b s.inflight.noop +
            256 * b s.inflight.tcA + 512 * b s.inflight.tcB),
          (0x01C, b s.bo.rx.running + 2 * b s.bo.tx.running + 4 * b s.bo.noop.running +
            2 ^ 4 * b s.retryEvt.rx + 2 ^ 5 * b s.retryEvt.tx + 2 ^ 6 * b s.retryEvt.noop +
            2 ^ 8 * b s.retryArgs.rx.valid + 2 ^ 9 * b s.retryArgs.tx.valid +
            2 ^ 10 * b s.retryArgs.noop.valid),
          (0x020, s.bo.rx.delay.toNat), (0x024, s.bo.tx.delay.toNat), (0x028, s.bo.noop.delay.toNat),
          (0x02C, s.progChannel.toNat + 2 ^ 16 * b s.progValid),
          (0x030, s.txPowerCur.toNat + 2 ^ 16 * b s.txPowerCurValid),
          (0x034, s.txPowerPend.toNat + 2 ^ 16 * b s.txPowerPendValid),
          (0x038, s.txSeq.toNat + 2 ^ 8 * b s.txAckReq + 2 ^ 16 * s.ackWaitSeq.toNat + 2 ^ 24 * b s.ackWait +
            2 ^ 25 * b s.ackQueued),
          (0x03C, s.txDur.toNat) ] ++
        [ (0x040, b s.tc.a.armed + 2 ^ 16 * s.tc.a.cb.toNat), (0x044, s.tc.a.deadline.toNat),
          (0x048, b s.tc.b.armed + 2 ^ 16 * s.tc.b.cb.toNat), (0x04C, s.tc.b.deadline.toNat),
          (0x050, s.rxState.bits.toNat + 2 ^ 8 * s.frameHandle.toNat + 2 ^ 16 * s.curEntry.toNat +
            2 ^ 24 * s.rdIdx.toNat),
          (0x054, s.fPan.toNat + 2 ^ 16 * s.fShort.toNat),
          (0x058, s.fExt.toNat % 2 ^ 32), (0x05C, s.fExt.toNat / 2 ^ 32),
          (0x060, s.fAllow.toNat + 2 ^ 8 * b s.fPromisc + 2 ^ 9 * b s.fEnhAck + 2 ^ 10 * b s.fAckFP),
          (0x064, b s.panCoord + 2 * b s.beaconEn), (0x068, s.dcBeacon.toNat), (0x06C, s.dcTotal.toNat),
          (0x070, s.dcMode.num + 2 ^ 2 * b s.dcRecorded + 2 ^ 8 * s.dcCur.toNat),
          (0x074, s.cfg.tLimited.toNat), (0x078, s.cfg.tCritical.toNat), (0x07C, s.cfg.tRegulated.toNat) ] →
        gives v) ∧
      (∀ r : Fin 20, off.toNat = 0x080 + 4 * r.val → gives (s.diag.get r).toNat) ∧
      (∀ i < s.cfg.nBuckets, off.toNat = 0x100 + 4 * i → gives (s.dcBucket.getD i 0).toNat) ∧
      (∀ x : Slot,
        let d := s.desc.get x
        let ctl := fun status : Nat => x.kind.toNat + 2 ^ 4 * status + 2 ^ 6 * d.trigger.bits.toNat +
          2 ^ 8 * (match d.next with | some y => y.num | none => 15) + 2 ^ 12 * d.cond.bits.toNat
        (off.toNat = 0x200 + 0x10 * x.num → s.inflight.get x = false → gives (ctl d.status.bits.toNat)) ∧
        (off.toNat = 0x200 + 0x10 * x.num → s.inflight.get x = true →
          step s = .next { u with
            draws := s.drawStatusBits.2.draws
            busData := BitVec.ofNat 32 (ctl s.drawStatusBits.1.toNat) }) ∧
        (off.toNat = 0x204 + 0x10 * x.num → gives d.startTime.toNat) ∧
        (off.toNat = 0x208 + 0x10 * x.num → gives d.param0.toNat) ∧
        (off.toNat = 0x20C + 0x10 * x.num → gives d.param1.toNat)) ∧
      (∀ k : BitVec 4, k.toNat < s.cfg.ringN → off.toNat = 0x300 + 4 * k.toNat →
        gives ((s.entry k).status.bits.toNat + 2 ^ 16 * (s.entry k).rxCount.toNat)))

/-- Which register accesses have no step (R103), and that a write changes only ARG0 or ARG1 and a read
nothing of the machine (R105). -/
def Obligations.RegisterAccess : Prop :=
  ∀ (s : State) (width : Nat) (off : BitVec 12) (v : Word) (rest : List Move), s.cfg.admitted = true →
    let u : State := { s with sched := rest }
    let o := off.toNat
    let listed := o % 4 = 0 ∧
      (o < 0x0D0 ∨ (0x100 ≤ o ∧ o < 0x100 + 4 * s.cfg.nBuckets) ∨ (0x200 ≤ o ∧ o < 0x2A0) ∨
        (0x300 ≤ o ∧ o < 0x300 + 4 * s.cfg.ringN))
    (s.sched = .regWrite width off v :: rest → ¬(width = 4 ∧ listed) → step s = .fault .registerAccess) ∧
    (s.sched = .regRead width off :: rest → ¬(width = 4 ∧ listed) → step s = .fault .registerAccess) ∧
    (s.sched = .regWrite 4 0x004 v :: rest → step s = .next { u with arg0 := v }) ∧
    (s.sched = .regWrite 4 0x008 v :: rest → step s = .next { u with arg1 := v }) ∧
    (s.sched = .regWrite 4 off v :: rest → listed → 0x00C ≤ o → step s = .next u) ∧
    (s.sched = .regRead 4 off :: rest → listed →
      ∃ t, step s = .next t ∧ t = { u with draws := t.draws, busData := t.busData })

/-- RADIO_RX_WRITE (R113): at the write position the bytes follow those already written, every other byte of the
ring stays, and the entry is the one last written. A write the radio's duties rule out has no step (R112, R113,
R115; 60_exceptions.md R498). Where the write position is follows from the entry last written, which the model
holds: log entry 17. -/
def Obligations.RadioReceiveWrite : Prop :=
  ∀ (s : State) (k : BitVec 4) (bytes : List Byte) (done : Bool) (rest : List Move),
    s.cfg.admitted = true → s.RingInv → s.sched = .ringWrite k bytes done :: rest →
    let position := match s.radioLast with
      | none => True
      | some l =>
        if (s.entry l).status = .active then k = l else k.toNat = (l.toNat + 1) % s.cfg.ringN
    let allowed := k.toNat < s.cfg.ringN ∧ position ∧
      ((s.entry k).status = .pending ∨ (s.entry k).status = .active) ∧ 1 ≤ bytes.length ∧
      bytes.length ≤ s.cfg.entrySize - s.rxCount k ∧ s.rxCount k + bytes.length < 2 ^ 12 ∧ s.inflight.rx = true
    (allowed → ∃ t, step s = .next t ∧
      t = { s with
        sched := rest
        ring := s.ring.set k.toNat
          ⟨if done then .full else .active, BitVec.ofNat 12 (s.rxCount k + bytes.length)⟩
        ringData := t.ringData
        radioLast := some k } ∧
      (∀ i < bytes.length, t.ringByte k (s.rxCount k + i) = bytes.getD i 0) ∧
      (∀ a, (∀ i < bytes.length, a ≠ ringAddr k (s.rxCount k + i)) →
        t.ringData.read a = s.ringData.read a)) ∧
    (¬allowed → step s = .refused .radioDuty)

/-- Bytes of an entry below its rxCount are not rewritten, and rxCount does not fall, until the entry is
flushed (R114) or INIT empties it. -/
def Obligations.RingBytesStable : Prop :=
  ∀ (s t : State) (k : BitVec 4) (off : Nat), s.RingInv → step s = .next t → off < s.rxCount k →
    (t.ringByte k off = s.ringByte k off ∧ s.rxCount k ≤ t.rxCount k) ∨ t.rxCount k = 0

/-! ## What every step keeps -/

/-- The outstanding counters count the principals in flight, with the other scheduler invariants (10_state.md
R36, R37; 40_scheduler.md R233, R268), after every step from any state in which they hold. -/
def Obligations.FlightInvKept : Prop := ∀ s t : State, s.FlightInv → step s = .next t → t.FlightInv

/-- A partial frame is held exactly in the states ADDR to TRAILER, with its lengths in order (20_memory.md R117;
41_rx_frame_fsm.md R305 to R340), and every field the frame does not carry is 0: an absent sequence number, PAN
ID or address, the security fields of an unsecured frame and of one whose security header is not read yet, an
elided counter or key field (10_state.md R49; 30_encoding.md R194), after every step. -/
def Obligations.FrameInvKept : Prop := ∀ s t : State, s.FrameInv → step s = .next t → t.FrameInv

/-- One timer per class and valid stored operands (43_backoff_timers.md R433, R435), after every step. -/
def Obligations.TimerInvKept : Prop := ∀ s t : State, s.TimerInv → step s = .next t → t.TimerInv

/-- The running total equals the sum of all bucket contents (10_state.md R54), after every step. -/
def Obligations.DutyInvKept : Prop := ∀ s t : State, s.DutyInv → step s = .next t → t.DutyInv

/-- The ring keeps its shape and its bytes their canonical form (20_memory.md R110 to R116), after every step. -/
def Obligations.RingInvKept : Prop := ∀ s t : State, s.RingInv → step s = .next t → t.RingInv

/-- The invariants hold at power-on of every admitted configuration, and the values the spec gives for power-on
(10_state.md R32). The other power-on values are the model's choice, log entry 1. -/
def Obligations.PowerOn : Prop :=
  ∀ c : Config, c.admitted = true →
    let s := State.powerOn c
    s.init = false ∧ s.fatal = false ∧ s.ringAllocated = false ∧ s.faults = [] ∧ s.out = [] ∧ s.Inv ∧
      State.reset = State.powerOn Config.default ∧ Config.default.admitted = true

/-- The power-down vote (40_scheduler.md R266): PD_VOTE is STATUS bit 2, a step emits PowerVote(HOLD) exactly
when it takes cntTotal from 0, and PowerVote(ALLOW) exactly when it takes it to 0, once, and no step emits any
other. -/
def Obligations.PowerVoteOnEdges : Prop :=
  (∀ s : State, s.regStatus.getLsbD 2 = true ↔ s.init = true ∧ s.fatal = false ∧ s.cntTotal = 0) ∧
  ∀ s t : State, s.FlightInv → step s = .next t →
    ∃ ms, t.out = s.out ++ ms ∧
      powerVotes ms =
        (if s.cntTotal = 0 ∧ t.cntTotal ≠ 0 then [.hold]
          else if s.cntTotal ≠ 0 ∧ t.cntTotal = 0 then [.allow]
          else [])

/-- No step takes back a message, a fault, INIT, the fatal state or the allocation, or changes the
configuration (00_scope.md R7, R11; 10_state.md R33; 60_exceptions.md R493), and a faulted state is never final
and reads 1 in STATUS bit 3 (R493, R516). -/
def Obligations.HistoryKept : Prop :=
  (∀ s t : State, step s = .next t →
    (∃ ms, t.out = s.out ++ ms) ∧ (∀ r ∈ s.faults, r ∈ t.faults) ∧ (s.init = true → t.init = true) ∧
      (s.fatal = true → t.fatal = true) ∧ (s.ringAllocated = true → t.ringAllocated = true) ∧
      t.cfg = s.cfg) ∧
  (∀ s : State, s.faults ≠ [] → s.final = false ∧ s.regStatus.getLsbD 3 = true)

/-- N_BUCKETS advances evict every bucket (42_duty_cycle.md R399): the total returns to 0, the current bucket
to where it was, and the mode is the one of an empty window. -/
def Obligations.WindowEviction : Prop :=
  ∀ s : State, s.cfg.admitted = true → s.DutyInv → s.ready →
    ∃ t, execAll (List.replicate s.cfg.nBuckets .dcAdvance) s = .next t ∧
      t.dcTotal = 0 ∧ t.dcBucket = List.replicate s.cfg.nBuckets 0 ∧ t.dcCur = s.dcCur ∧
      t.dcMode = s.modeOf 0 ∧ t.dcRecorded = s.dcRecorded

/-- Descriptors in flight are not rewritten but for statuses and, in a step that runs STOP_ALL, CCA's successor
(20_memory.md R124; 40_scheduler.md R248; 70_reset_and_hazards.md R552). -/
def Obligations.DescriptorsStable : Prop :=
  ∀ (s t : State) (x : Slot), s.FlightInv → step s = .next t → s.inflight.get x = true →
    let d := s.desc.get x
    let e := t.desc.get x
    e.trigger = d.trigger ∧ e.startTime = d.startTime ∧ e.cond = d.cond ∧ e.param0 = d.param0 ∧
      e.param1 = d.param1 ∧
      (e.next = d.next ∨
        (x = .cca ∧ e.next = none ∧
          ∃ w rest g, s.sched = .regWrite 4 0x000 w :: rest ∧ decodeCmd w = .ok (.stopAll g)))

/-- Frames: what no instruction changes, what no event changes, and what no command but those named changes
(00_scope.md R9). Every byte of the ring is unchanged by every instruction but INIT, which leaves them unspecified
(R541): only the radio's ring writes store bytes (R11). The entry the radio last wrote (log entry 17), the
configuration, the schedule and the value on the bus are the model's fields (log entries 5,
7 and 23). -/
def Obligations.InstructionFrames : Prop :=
  ∀ (i : Instr) (s t : State), exec i s = .next t →
    (t.cfg = s.cfg ∧ t.sched = s.sched ∧ t.busData = s.busData ∧ t.radioLast = s.radioLast) ∧
    (i ≠ .init → t.ringData = s.ringData ∧ ∀ a, t.ringData.read a = s.ringData.read a) ∧
    (i.port = .evt →
      t.init = s.init ∧ t.fatal = s.fatal ∧ t.ringAllocated = s.ringAllocated ∧ t.arg0 = s.arg0 ∧
        t.arg1 = s.arg1 ∧ t.res = s.res ∧ t.progChannel = s.progChannel ∧ t.progValid = s.progValid ∧
        t.txPowerPend = s.txPowerPend ∧ t.txAckReq = s.txAckReq ∧ t.txSeq = s.txSeq ∧ t.txDur = s.txDur ∧
        t.bo = s.bo ∧ t.retryEvt = s.retryEvt ∧ t.retryArgs = s.retryArgs ∧ t.fPan = s.fPan ∧
        t.fShort = s.fShort ∧ t.fExt = s.fExt ∧ t.fAllow = s.fAllow ∧ t.fPromisc = s.fPromisc ∧
        t.fEnhAck = s.fEnhAck ∧ t.fAckFP = s.fAckFP ∧ t.panCoord = s.panCoord ∧ t.beaconEn = s.beaconEn ∧
        t.dcBeacon = s.dcBeacon ∧ t.dcCur = s.dcCur ∧ (s.init = true → t.faults = s.faults)) ∧
    (i.port = .cmd → i ≠ .init →
      t.init = s.init ∧ t.fatal = s.fatal ∧ t.ringAllocated = s.ringAllocated ∧ t.ackWait = s.ackWait ∧
        t.ackWaitSeq = s.ackWaitSeq ∧ t.frameHandle = s.frameHandle ∧ t.curEntry = s.curEntry ∧
        t.cntTotal.toNat ≤ s.cntTotal.toNat + 1 ∧
        ((∀ ch a c, i ≠ .submitTx ch a c) →
          t.txAckReq = s.txAckReq ∧ t.txSeq = s.txSeq ∧ t.txDur = s.txDur))
end

