-- ==== Sys2Proof/Laws/Decode.lean ====
section
/-!
SUPPORT. Words and their fields: what the encoder's words hold, that a word is its fields, that masks act
field by field, and the command decoder row by row.
-/

namespace Sys2Proof

/-! ## Fields of the words the encoder writes -/

theorem toNat_append_add {m n : Nat} (x : BitVec m) (y : BitVec n) :
    (x ++ y).toNat = x.toNat * 2 ^ n + y.toNat := by
  rw [BitVec.toNat_append, Nat.shiftLeft_eq, Nat.mul_comm, Nat.two_pow_add_eq_or_of_lt y.isLt]

theorem toNat_cmdWord (o : Byte) (s f : BitVec 4) (i : Half) :
    (cmdWord o s f i).toNat = o.toNat + 256 * s.toNat + 4096 * f.toNat + 65536 * i.toNat := by
  unfold cmdWord
  rw [toNat_append_add, toNat_append_add, toNat_append_add]
  omega

theorem toNat_evtWord (h b : Byte) : (evtWord h b).toNat = h.toNat + 256 * b.toNat := by
  unfold evtWord
  rw [toNat_append_add, toNat_append_add]
  simp; omega

@[simp] theorem opcField_cmdWord (o : Byte) (s f : BitVec 4) (i : Half) : opcField (cmdWord o s f i) = o := by
  apply BitVec.eq_of_toNat_eq
  have := o.isLt
  simp only [opcField, BitVec.extractLsb'_toNat, Nat.shiftRight_eq_div_pow, toNat_cmdWord]
  omega

@[simp] theorem selField_cmdWord (o : Byte) (s f : BitVec 4) (i : Half) : selField (cmdWord o s f i) = s := by
  apply BitVec.eq_of_toNat_eq
  have := o.isLt; have := s.isLt
  simp only [selField, BitVec.extractLsb'_toNat, Nat.shiftRight_eq_div_pow, toNat_cmdWord]
  omega

@[simp] theorem flgField_cmdWord (o : Byte) (s f : BitVec 4) (i : Half) : flgField (cmdWord o s f i) = f := by
  apply BitVec.eq_of_toNat_eq
  have := o.isLt; have := s.isLt; have := f.isLt
  simp only [flgField, BitVec.extractLsb'_toNat, Nat.shiftRight_eq_div_pow, toNat_cmdWord]
  omega

@[simp] theorem immField_cmdWord (o : Byte) (s f : BitVec 4) (i : Half) : immField (cmdWord o s f i) = i := by
  apply BitVec.eq_of_toNat_eq
  have := o.isLt; have := s.isLt; have := f.isLt; have := i.isLt
  simp only [immField, BitVec.extractLsb'_toNat, Nat.shiftRight_eq_div_pow, toNat_cmdWord]
  omega

@[simp] theorem handleField_evtWord (h b : Byte) : handleField (evtWord h b) = h := by
  apply BitVec.eq_of_toNat_eq
  have := h.isLt
  simp only [handleField, BitVec.extractLsb'_toNat, Nat.shiftRight_eq_div_pow, toNat_evtWord]
  omega

@[simp] theorem eventField_evtWord (h b : Byte) : eventField (evtWord h b) = b := by
  apply BitVec.eq_of_toNat_eq
  have := h.isLt; have := b.isLt
  simp only [eventField, BitVec.extractLsb'_toNat, Nat.shiftRight_eq_div_pow, toNat_evtWord]
  omega

@[simp] theorem evtReservedField_evtWord (h b : Byte) : evtReservedField (evtWord h b) = 0 := by
  apply BitVec.eq_of_toNat_eq
  have := h.isLt; have := b.isLt
  simp only [evtReservedField, BitVec.extractLsb'_toNat, Nat.shiftRight_eq_div_pow, toNat_evtWord]
  simp; omega

/-! ## A word is its fields -/

theorem cmdWord_fields (w : Word) : cmdWord (opcField w) (selField w) (flgField w) (immField w) = w := by
  apply BitVec.eq_of_toNat_eq
  have := w.isLt
  simp only [toNat_cmdWord, opcField, selField, flgField, immField, BitVec.extractLsb'_toNat,
    Nat.shiftRight_eq_div_pow]
  omega

theorem evtWord_fields {w : Word} (h : evtReservedField w = 0) :
    evtWord (handleField w) (eventField w) = w := by
  apply BitVec.eq_of_toNat_eq
  have := w.isLt
  have h2 : (evtReservedField w).toNat = 0 := by rw [h]; rfl
  simp only [evtReservedField, BitVec.extractLsb'_toNat, Nat.shiftRight_eq_div_pow] at h2
  simp only [toNat_evtWord, handleField, eventField, BitVec.extractLsb'_toNat, Nat.shiftRight_eq_div_pow]
  omega

/-- A mask acts field by field. -/
theorem cmdWord_and (o o' : Byte) (s f s' f' : BitVec 4) (i i' : Half) :
    cmdWord o s f i &&& cmdWord o' s' f' i' = cmdWord (o &&& o') (s &&& s') (f &&& f') (i &&& i') := by
  simp only [cmdWord, ← BitVec.and_append]

theorem cmdWord_inj {o o' : Byte} {s f s' f' : BitVec 4} {i i' : Half} :
    cmdWord o s f i = cmdWord o' s' f' i' ↔ o = o' ∧ s = s' ∧ f = f' ∧ i = i' := by
  constructor
  · intro h
    exact ⟨by simpa using congrArg opcField h, by simpa using congrArg selField h,
      by simpa using congrArg flgField h, by simpa using congrArg immField h⟩
  · rintro ⟨rfl, rfl, rfl, rfl⟩; rfl

/-! ## The command decoder -/

/-- A word decodes to an instruction exactly when it matches a row of R154 that builds it. -/
theorem decodeCmd_ok_iff (w : Word) (i : Instr) :
    decodeCmd w = .ok i ↔
      ∃ r, cmdRow? (opcField w) = some r ∧ w &&& r.mask = r.pattern ∧ r.build w = i := by
  unfold decodeCmd
  cases cmdRow? (opcField w) with
  | none => simp
  | some r => by_cases h : w &&& r.mask = r.pattern <;> simp [h]

/-- The encoder's word of a row decodes to what the row builds of it. -/
theorem decodeCmd_cmdWord {o : Byte} {s f : BitVec 4} {i : Half} {r : CmdRow} (h : cmdRow? o = some r)
    (hm : cmdWord o s f i &&& r.mask = r.pattern) :
    decodeCmd (cmdWord o s f i) = .ok (r.build (cmdWord o s f i)) := by
  rw [decodeCmd_ok_iff]
  exact ⟨r, by rw [opcField_cmdWord]; exact h, hm, rfl⟩

/-! ## The event decoder -/

/-- The high part of an appended vector. -/
theorem extractLsb'_append {a n : Nat} (l : BitVec a) (c : BitVec n) : (l ++ c).extractLsb' n a = l := by
  apply BitVec.eq_of_toNat_eq
  rw [BitVec.extractLsb'_toNat, Nat.shiftRight_eq_div_pow, toNat_append_add, Nat.mul_comm,
    Nat.mul_add_div (by positivity), Nat.div_eq_of_lt c.isLt, Nat.mod_eq_of_lt (by simpa using l.isLt)]
  rfl

/-- The low bits of an appended vector. -/
theorem getLsbD_append_low {a n : Nat} (l : BitVec a) (c : BitVec n) {k : Nat} (h : k < n) :
    (l ++ c).getLsbD k = c.getLsbD k := by
  rw [BitVec.getLsbD_append]; simp [h]

theorem eventInstr_evtPreamble (h : Byte) (l : BitVec 7) :
    eventInstr h (Instr.evtPreamble h l).eventBits = some (.evtPreamble h l) := by
  have e := extractLsb'_append l (1 : BitVec 1)
  have g := fun k hk => getLsbD_append_low l (1 : BitVec 1) (k := k) hk
  have g0 := g 0 (by decide)
  simp only [Instr.eventBits]
  generalize (l ++ (1 : BitVec 1) : Byte) = b at *
  unfold eventInstr
  rw [g0]
  show some (Instr.evtPreamble h (b.extractLsb' 1 7)) = _
  rw [e]

theorem eventInstr_evtFrameOk (h : Byte) (l : BitVec 6) :
    eventInstr h (Instr.evtFrameOk h l).eventBits = some (.evtFrameOk h l) := by
  have e := extractLsb'_append l (2 : BitVec 2)
  have g := fun k hk => getLsbD_append_low l (2 : BitVec 2) (k := k) hk
  have g0 := g 0 (by decide)
  have g1 := g 1 (by decide)
  simp only [Instr.eventBits]
  generalize (l ++ (2 : BitVec 2) : Byte) = b at *
  unfold eventInstr
  rw [g0, g1]
  show some (Instr.evtFrameOk h (b.extractLsb' 2 6)) = _
  rw [e]

theorem eventInstr_evtBadCrc (h : Byte) (l : BitVec 5) :
    eventInstr h (Instr.evtBadCrc h l).eventBits = some (.evtBadCrc h l) := by
  have e := extractLsb'_append l (4 : BitVec 3)
  have g := fun k hk => getLsbD_append_low l (4 : BitVec 3) (k := k) hk
  have g0 := g 0 (by decide)
  have g1 := g 1 (by decide)
  have g2 := g 2 (by decide)
  simp only [Instr.eventBits]
  generalize (l ++ (4 : BitVec 3) : Byte) = b at *
  unfold eventInstr
  rw [g0, g1, g2]
  show some (Instr.evtBadCrc h (b.extractLsb' 3 5)) = _
  rw [e]

theorem eventInstr_evtBufFull (h : Byte) (l : BitVec 4) :
    eventInstr h (Instr.evtBufFull h l).eventBits = some (.evtBufFull h l) := by
  have e := extractLsb'_append l (8 : BitVec 4)
  have g := fun k hk => getLsbD_append_low l (8 : BitVec 4) (k := k) hk
  have g0 := g 0 (by decide)
  have g1 := g 1 (by decide)
  have g2 := g 2 (by decide)
  have g3 := g 3 (by decide)
  simp only [Instr.eventBits]
  generalize (l ++ (8 : BitVec 4) : Byte) = b at *
  unfold eventInstr
  rw [g0, g1, g2, g3]
  show some (Instr.evtBufFull h (b.extractLsb' 4 4)) = _
  rw [e]

theorem eventInstr_evtCmdDone (h : Byte) (l : BitVec 3) :
    eventInstr h (Instr.evtCmdDone h l).eventBits = some (.evtCmdDone h l) := by
  have e := extractLsb'_append l (16 : BitVec 5)
  have g := fun k hk => getLsbD_append_low l (16 : BitVec 5) (k := k) hk
  have g0 := g 0 (by decide)
  have g1 := g 1 (by decide)
  have g2 := g 2 (by decide)
  have g3 := g 3 (by decide)
  have g4 := g 4 (by decide)
  simp only [Instr.eventBits]
  generalize (l ++ (16 : BitVec 5) : Byte) = b at *
  unfold eventInstr
  rw [g0, g1, g2, g3, g4]
  show some (Instr.evtCmdDone h (b.extractLsb' 5 3)) = _
  rw [e]

theorem eventInstr_evtCmdStopped (h : Byte) (l : BitVec 2) :
    eventInstr h (Instr.evtCmdStopped h l).eventBits = some (.evtCmdStopped h l) := by
  have e := extractLsb'_append l (32 : BitVec 6)
  have g := fun k hk => getLsbD_append_low l (32 : BitVec 6) (k := k) hk
  have g0 := g 0 (by decide)
  have g1 := g 1 (by decide)
  have g2 := g 2 (by decide)
  have g3 := g 3 (by decide)
  have g4 := g 4 (by decide)
  have g5 := g 5 (by decide)
  simp only [Instr.eventBits]
  generalize (l ++ (32 : BitVec 6) : Byte) = b at *
  unfold eventInstr
  rw [g0, g1, g2, g3, g4, g5]
  show some (Instr.evtCmdStopped h (b.extractLsb' 6 2)) = _
  rw [e]

theorem eventInstr_evtCmdPreempted (h : Byte) (l : BitVec 1) :
    eventInstr h (Instr.evtCmdPreempted h l).eventBits = some (.evtCmdPreempted h l) := by
  have e := extractLsb'_append l (64 : BitVec 7)
  have g := fun k hk => getLsbD_append_low l (64 : BitVec 7) (k := k) hk
  have g0 := g 0 (by decide)
  have g1 := g 1 (by decide)
  have g2 := g 2 (by decide)
  have g3 := g 3 (by decide)
  have g4 := g 4 (by decide)
  have g5 := g 5 (by decide)
  have g6 := g 6 (by decide)
  simp only [Instr.eventBits]
  generalize (l ++ (64 : BitVec 7) : Byte) = b at *
  unfold eventInstr
  rw [g0, g1, g2, g3, g4, g5, g6]
  show some (Instr.evtCmdPreempted h (b.extractLsb' 7 1)) = _
  rw [e]

theorem eventInstr_evtTcFired (h : Byte) : eventInstr h (Instr.evtTcFired h).eventBits = some (.evtTcFired h) := by
  have g : ∀ k, k < 7 → (0x80 : Byte).getLsbD k = false := by decide
  have g7 : (0x80 : Byte).getLsbD 7 = true := by decide
  show eventInstr h (0x80 : Byte) = _
  generalize (0x80 : Byte) = b at *
  unfold eventInstr
  rw [g 0 (by decide), g 1 (by decide), g 2 (by decide), g 3 (by decide), g 4 (by decide),
    g 5 (by decide), g 6 (by decide), g7]
  rfl

/-- The encoder's event word decodes to its instruction. -/
theorem decodeEvt_evtWord {h b : Byte} {i : Instr} (hi : eventInstr h b = some i) :
    decodeEvt (evtWord h b) = .ok i := by
  unfold decodeEvt
  rw [evtReservedField_evtWord, handleField_evtWord, eventField_evtWord, hi]
  rfl

end Sys2Proof
end

