-- ==== Sys2Proof/Laws/State.lean ====
section
/-!
SUPPORT. What each primitive update of the state does to each field: the changed field's new value and
every other field unchanged. One theorem per update; simp reads each of its parts as a rewrite rule, so
that no later proof unfolds a record update.
-/

namespace Sys2Proof.Machine

/-- emit M (00_scope.md R11). -/
@[simp] theorem State.emit_fields (s : State) (m : OutMsg) :
    (s.emit m).cfg = s.cfg ∧ (s.emit m).init = s.init ∧ (s.emit m).fatal = s.fatal ∧
    (s.emit m).ringAllocated = s.ringAllocated ∧ (s.emit m).faults = s.faults ∧ (s.emit m).arg0 = s.arg0 ∧
    (s.emit m).arg1 = s.arg1 ∧ (s.emit m).res = s.res ∧ (s.emit m).cntTotal = s.cntTotal ∧
    (s.emit m).cntRx = s.cntRx ∧ (s.emit m).inflight = s.inflight ∧
    (s.emit m).progChannel = s.progChannel ∧ (s.emit m).progValid = s.progValid ∧
    (s.emit m).txPowerCur = s.txPowerCur ∧ (s.emit m).txPowerCurValid = s.txPowerCurValid ∧
    (s.emit m).txPowerPend = s.txPowerPend ∧ (s.emit m).txPowerPendValid = s.txPowerPendValid ∧
    (s.emit m).desc = s.desc ∧ (s.emit m).txAckReq = s.txAckReq ∧ (s.emit m).txSeq = s.txSeq ∧
    (s.emit m).txDur = s.txDur ∧ (s.emit m).ackQueued = s.ackQueued ∧ (s.emit m).ackWait = s.ackWait ∧
    (s.emit m).ackWaitSeq = s.ackWaitSeq ∧ (s.emit m).bo = s.bo ∧ (s.emit m).retryEvt = s.retryEvt ∧
    (s.emit m).retryArgs = s.retryArgs ∧ (s.emit m).tc = s.tc ∧ (s.emit m).rxState = s.rxState ∧
    (s.emit m).frameHandle = s.frameHandle ∧ (s.emit m).curEntry = s.curEntry ∧ (s.emit m).pf = s.pf ∧
    (s.emit m).ring = s.ring ∧ (s.emit m).ringData = s.ringData ∧
    (s.emit m).radioLast = s.radioLast ∧ (s.emit m).rdIdx = s.rdIdx ∧
    (s.emit m).fPan = s.fPan ∧ (s.emit m).fShort = s.fShort ∧ (s.emit m).fExt = s.fExt ∧
    (s.emit m).fAllow = s.fAllow ∧ (s.emit m).fPromisc = s.fPromisc ∧ (s.emit m).fEnhAck = s.fEnhAck ∧
    (s.emit m).fAckFP = s.fAckFP ∧ (s.emit m).panCoord = s.panCoord ∧ (s.emit m).beaconEn = s.beaconEn ∧
    (s.emit m).dcBeacon = s.dcBeacon ∧ (s.emit m).dcBucket = s.dcBucket ∧ (s.emit m).dcTotal = s.dcTotal ∧
    (s.emit m).dcCur = s.dcCur ∧ (s.emit m).dcMode = s.dcMode ∧ (s.emit m).dcRecorded = s.dcRecorded ∧
    (s.emit m).diag = s.diag ∧ (s.emit m).out = s.out ++ [m] ∧ (s.emit m).sched = s.sched ∧
    (s.emit m).draws = s.draws ∧ (s.emit m).busData = s.busData := by
  and_intros <;> rfl

/-- count(r) (10_state.md R55). -/
@[simp] theorem State.count_fields (s : State) (r : DiagReason) :
    (s.count r).cfg = s.cfg ∧ (s.count r).init = s.init ∧ (s.count r).fatal = s.fatal ∧
    (s.count r).ringAllocated = s.ringAllocated ∧ (s.count r).faults = s.faults ∧
    (s.count r).arg0 = s.arg0 ∧ (s.count r).arg1 = s.arg1 ∧ (s.count r).res = s.res ∧
    (s.count r).cntTotal = s.cntTotal ∧ (s.count r).cntRx = s.cntRx ∧ (s.count r).inflight = s.inflight ∧
    (s.count r).progChannel = s.progChannel ∧ (s.count r).progValid = s.progValid ∧
    (s.count r).txPowerCur = s.txPowerCur ∧ (s.count r).txPowerCurValid = s.txPowerCurValid ∧
    (s.count r).txPowerPend = s.txPowerPend ∧ (s.count r).txPowerPendValid = s.txPowerPendValid ∧
    (s.count r).desc = s.desc ∧ (s.count r).txAckReq = s.txAckReq ∧ (s.count r).txSeq = s.txSeq ∧
    (s.count r).txDur = s.txDur ∧ (s.count r).ackQueued = s.ackQueued ∧ (s.count r).ackWait = s.ackWait ∧
    (s.count r).ackWaitSeq = s.ackWaitSeq ∧ (s.count r).bo = s.bo ∧ (s.count r).retryEvt = s.retryEvt ∧
    (s.count r).retryArgs = s.retryArgs ∧ (s.count r).tc = s.tc ∧ (s.count r).rxState = s.rxState ∧
    (s.count r).frameHandle = s.frameHandle ∧ (s.count r).curEntry = s.curEntry ∧ (s.count r).pf = s.pf ∧
    (s.count r).ring = s.ring ∧ (s.count r).ringData = s.ringData ∧
    (s.count r).radioLast = s.radioLast ∧ (s.count r).rdIdx = s.rdIdx ∧
    (s.count r).fPan = s.fPan ∧ (s.count r).fShort = s.fShort ∧ (s.count r).fExt = s.fExt ∧
    (s.count r).fAllow = s.fAllow ∧ (s.count r).fPromisc = s.fPromisc ∧ (s.count r).fEnhAck = s.fEnhAck ∧
    (s.count r).fAckFP = s.fAckFP ∧ (s.count r).panCoord = s.panCoord ∧ (s.count r).beaconEn = s.beaconEn ∧
    (s.count r).dcBeacon = s.dcBeacon ∧ (s.count r).dcBucket = s.dcBucket ∧
    (s.count r).dcTotal = s.dcTotal ∧ (s.count r).dcCur = s.dcCur ∧ (s.count r).dcMode = s.dcMode ∧
    (s.count r).dcRecorded = s.dcRecorded ∧
    (s.count r).diag = s.diag.set r.index.val (saturate (s.diag.get r.index)) r.index.isLt ∧
    (s.count r).out = s.out ∧ (s.count r).sched = s.sched ∧ (s.count r).draws = s.draws ∧
    (s.count r).busData = s.busData := by
  and_intros <;> rfl

/-- result(code, v) (30_encoding.md R182). -/
@[simp] theorem State.resultV_fields (s : State) (c : ResultCode) (v : Bool) :
    (s.resultV c v).cfg = s.cfg ∧ (s.resultV c v).init = s.init ∧ (s.resultV c v).fatal = s.fatal ∧
    (s.resultV c v).ringAllocated = s.ringAllocated ∧ (s.resultV c v).faults = s.faults ∧
    (s.resultV c v).arg0 = s.arg0 ∧ (s.resultV c v).arg1 = s.arg1 ∧ (s.resultV c v).res = resWord c v ∧
    (s.resultV c v).cntTotal = s.cntTotal ∧ (s.resultV c v).cntRx = s.cntRx ∧
    (s.resultV c v).inflight = s.inflight ∧ (s.resultV c v).progChannel = s.progChannel ∧
    (s.resultV c v).progValid = s.progValid ∧ (s.resultV c v).txPowerCur = s.txPowerCur ∧
    (s.resultV c v).txPowerCurValid = s.txPowerCurValid ∧ (s.resultV c v).txPowerPend = s.txPowerPend ∧
    (s.resultV c v).txPowerPendValid = s.txPowerPendValid ∧ (s.resultV c v).desc = s.desc ∧
    (s.resultV c v).txAckReq = s.txAckReq ∧ (s.resultV c v).txSeq = s.txSeq ∧
    (s.resultV c v).txDur = s.txDur ∧ (s.resultV c v).ackQueued = s.ackQueued ∧
    (s.resultV c v).ackWait = s.ackWait ∧ (s.resultV c v).ackWaitSeq = s.ackWaitSeq ∧
    (s.resultV c v).bo = s.bo ∧ (s.resultV c v).retryEvt = s.retryEvt ∧
    (s.resultV c v).retryArgs = s.retryArgs ∧ (s.resultV c v).tc = s.tc ∧
    (s.resultV c v).rxState = s.rxState ∧ (s.resultV c v).frameHandle = s.frameHandle ∧
    (s.resultV c v).curEntry = s.curEntry ∧ (s.resultV c v).pf = s.pf ∧ (s.resultV c v).ring = s.ring ∧
    (s.resultV c v).ringData = s.ringData ∧
    (s.resultV c v).radioLast = s.radioLast ∧ (s.resultV c v).rdIdx = s.rdIdx ∧
    (s.resultV c v).fPan = s.fPan ∧ (s.resultV c v).fShort = s.fShort ∧ (s.resultV c v).fExt = s.fExt ∧
    (s.resultV c v).fAllow = s.fAllow ∧ (s.resultV c v).fPromisc = s.fPromisc ∧
    (s.resultV c v).fEnhAck = s.fEnhAck ∧ (s.resultV c v).fAckFP = s.fAckFP ∧
    (s.resultV c v).panCoord = s.panCoord ∧ (s.resultV c v).beaconEn = s.beaconEn ∧
    (s.resultV c v).dcBeacon = s.dcBeacon ∧ (s.resultV c v).dcBucket = s.dcBucket ∧
    (s.resultV c v).dcTotal = s.dcTotal ∧ (s.resultV c v).dcCur = s.dcCur ∧
    (s.resultV c v).dcMode = s.dcMode ∧ (s.resultV c v).dcRecorded = s.dcRecorded ∧
    (s.resultV c v).diag = s.diag ∧ (s.resultV c v).out = s.out ∧ (s.resultV c v).sched = s.sched ∧
    (s.resultV c v).draws = s.draws ∧ (s.resultV c v).busData = s.busData := by
  and_intros <;> rfl

/-- result(code) (R182). -/
@[simp] theorem State.result_fields (s : State) (c : ResultCode) :
    (s.result c).cfg = s.cfg ∧ (s.result c).init = s.init ∧ (s.result c).fatal = s.fatal ∧
    (s.result c).ringAllocated = s.ringAllocated ∧ (s.result c).faults = s.faults ∧
    (s.result c).arg0 = s.arg0 ∧ (s.result c).arg1 = s.arg1 ∧ (s.result c).res = resWord c false ∧
    (s.result c).cntTotal = s.cntTotal ∧ (s.result c).cntRx = s.cntRx ∧
    (s.result c).inflight = s.inflight ∧ (s.result c).progChannel = s.progChannel ∧
    (s.result c).progValid = s.progValid ∧ (s.result c).txPowerCur = s.txPowerCur ∧
    (s.result c).txPowerCurValid = s.txPowerCurValid ∧ (s.result c).txPowerPend = s.txPowerPend ∧
    (s.result c).txPowerPendValid = s.txPowerPendValid ∧ (s.result c).desc = s.desc ∧
    (s.result c).txAckReq = s.txAckReq ∧ (s.result c).txSeq = s.txSeq ∧ (s.result c).txDur = s.txDur ∧
    (s.result c).ackQueued = s.ackQueued ∧ (s.result c).ackWait = s.ackWait ∧
    (s.result c).ackWaitSeq = s.ackWaitSeq ∧ (s.result c).bo = s.bo ∧ (s.result c).retryEvt = s.retryEvt ∧
    (s.result c).retryArgs = s.retryArgs ∧ (s.result c).tc = s.tc ∧ (s.result c).rxState = s.rxState ∧
    (s.result c).frameHandle = s.frameHandle ∧ (s.result c).curEntry = s.curEntry ∧
    (s.result c).pf = s.pf ∧ (s.result c).ring = s.ring ∧ (s.result c).ringData = s.ringData ∧
    (s.result c).radioLast = s.radioLast ∧
    (s.result c).rdIdx = s.rdIdx ∧ (s.result c).fPan = s.fPan ∧ (s.result c).fShort = s.fShort ∧
    (s.result c).fExt = s.fExt ∧ (s.result c).fAllow = s.fAllow ∧ (s.result c).fPromisc = s.fPromisc ∧
    (s.result c).fEnhAck = s.fEnhAck ∧ (s.result c).fAckFP = s.fAckFP ∧
    (s.result c).panCoord = s.panCoord ∧ (s.result c).beaconEn = s.beaconEn ∧
    (s.result c).dcBeacon = s.dcBeacon ∧ (s.result c).dcBucket = s.dcBucket ∧
    (s.result c).dcTotal = s.dcTotal ∧ (s.result c).dcCur = s.dcCur ∧ (s.result c).dcMode = s.dcMode ∧
    (s.result c).dcRecorded = s.dcRecorded ∧ (s.result c).diag = s.diag ∧ (s.result c).out = s.out ∧
    (s.result c).sched = s.sched ∧ (s.result c).draws = s.draws ∧ (s.result c).busData = s.busData := by
  and_intros <;> rfl

/-- The control part of one ring entry (20_memory.md R110). -/
@[simp] theorem State.setEntry_fields (s : State) (k : BitVec 4) (e : RingEntry) :
    (s.setEntry k e).cfg = s.cfg ∧ (s.setEntry k e).init = s.init ∧ (s.setEntry k e).fatal = s.fatal ∧
    (s.setEntry k e).ringAllocated = s.ringAllocated ∧ (s.setEntry k e).faults = s.faults ∧
    (s.setEntry k e).arg0 = s.arg0 ∧ (s.setEntry k e).arg1 = s.arg1 ∧ (s.setEntry k e).res = s.res ∧
    (s.setEntry k e).cntTotal = s.cntTotal ∧ (s.setEntry k e).cntRx = s.cntRx ∧
    (s.setEntry k e).inflight = s.inflight ∧ (s.setEntry k e).progChannel = s.progChannel ∧
    (s.setEntry k e).progValid = s.progValid ∧ (s.setEntry k e).txPowerCur = s.txPowerCur ∧
    (s.setEntry k e).txPowerCurValid = s.txPowerCurValid ∧ (s.setEntry k e).txPowerPend = s.txPowerPend ∧
    (s.setEntry k e).txPowerPendValid = s.txPowerPendValid ∧ (s.setEntry k e).desc = s.desc ∧
    (s.setEntry k e).txAckReq = s.txAckReq ∧ (s.setEntry k e).txSeq = s.txSeq ∧
    (s.setEntry k e).txDur = s.txDur ∧ (s.setEntry k e).ackQueued = s.ackQueued ∧
    (s.setEntry k e).ackWait = s.ackWait ∧ (s.setEntry k e).ackWaitSeq = s.ackWaitSeq ∧
    (s.setEntry k e).bo = s.bo ∧ (s.setEntry k e).retryEvt = s.retryEvt ∧
    (s.setEntry k e).retryArgs = s.retryArgs ∧ (s.setEntry k e).tc = s.tc ∧
    (s.setEntry k e).rxState = s.rxState ∧ (s.setEntry k e).frameHandle = s.frameHandle ∧
    (s.setEntry k e).curEntry = s.curEntry ∧ (s.setEntry k e).pf = s.pf ∧
    (s.setEntry k e).ring = s.ring.set k.toNat e ∧ (s.setEntry k e).ringData = s.ringData ∧
    (s.setEntry k e).radioLast = s.radioLast ∧
    (s.setEntry k e).rdIdx = s.rdIdx ∧ (s.setEntry k e).fPan = s.fPan ∧
    (s.setEntry k e).fShort = s.fShort ∧ (s.setEntry k e).fExt = s.fExt ∧
    (s.setEntry k e).fAllow = s.fAllow ∧ (s.setEntry k e).fPromisc = s.fPromisc ∧
    (s.setEntry k e).fEnhAck = s.fEnhAck ∧ (s.setEntry k e).fAckFP = s.fAckFP ∧
    (s.setEntry k e).panCoord = s.panCoord ∧ (s.setEntry k e).beaconEn = s.beaconEn ∧
    (s.setEntry k e).dcBeacon = s.dcBeacon ∧ (s.setEntry k e).dcBucket = s.dcBucket ∧
    (s.setEntry k e).dcTotal = s.dcTotal ∧ (s.setEntry k e).dcCur = s.dcCur ∧
    (s.setEntry k e).dcMode = s.dcMode ∧ (s.setEntry k e).dcRecorded = s.dcRecorded ∧
    (s.setEntry k e).diag = s.diag ∧ (s.setEntry k e).out = s.out ∧ (s.setEntry k e).sched = s.sched ∧
    (s.setEntry k e).draws = s.draws ∧ (s.setEntry k e).busData = s.busData := by
  and_intros <;> rfl

/-- The next free value. -/
@[simp] theorem State.bumpFree_fields (s : State) :
    (s.bumpFree).cfg = s.cfg ∧ (s.bumpFree).init = s.init ∧ (s.bumpFree).fatal = s.fatal ∧
    (s.bumpFree).ringAllocated = s.ringAllocated ∧ (s.bumpFree).faults = s.faults ∧
    (s.bumpFree).arg0 = s.arg0 ∧ (s.bumpFree).arg1 = s.arg1 ∧ (s.bumpFree).res = s.res ∧
    (s.bumpFree).cntTotal = s.cntTotal ∧ (s.bumpFree).cntRx = s.cntRx ∧
    (s.bumpFree).inflight = s.inflight ∧ (s.bumpFree).progChannel = s.progChannel ∧
    (s.bumpFree).progValid = s.progValid ∧ (s.bumpFree).txPowerCur = s.txPowerCur ∧
    (s.bumpFree).txPowerCurValid = s.txPowerCurValid ∧ (s.bumpFree).txPowerPend = s.txPowerPend ∧
    (s.bumpFree).txPowerPendValid = s.txPowerPendValid ∧ (s.bumpFree).desc = s.desc ∧
    (s.bumpFree).txAckReq = s.txAckReq ∧ (s.bumpFree).txSeq = s.txSeq ∧ (s.bumpFree).txDur = s.txDur ∧
    (s.bumpFree).ackQueued = s.ackQueued ∧ (s.bumpFree).ackWait = s.ackWait ∧
    (s.bumpFree).ackWaitSeq = s.ackWaitSeq ∧ (s.bumpFree).bo = s.bo ∧ (s.bumpFree).retryEvt = s.retryEvt ∧
    (s.bumpFree).retryArgs = s.retryArgs ∧ (s.bumpFree).tc = s.tc ∧ (s.bumpFree).rxState = s.rxState ∧
    (s.bumpFree).frameHandle = s.frameHandle ∧ (s.bumpFree).curEntry = s.curEntry ∧
    (s.bumpFree).pf = s.pf ∧ (s.bumpFree).ring = s.ring ∧ (s.bumpFree).ringData = s.ringData ∧
    (s.bumpFree).radioLast = s.radioLast ∧
    (s.bumpFree).rdIdx = s.rdIdx ∧ (s.bumpFree).fPan = s.fPan ∧ (s.bumpFree).fShort = s.fShort ∧
    (s.bumpFree).fExt = s.fExt ∧ (s.bumpFree).fAllow = s.fAllow ∧ (s.bumpFree).fPromisc = s.fPromisc ∧
    (s.bumpFree).fEnhAck = s.fEnhAck ∧ (s.bumpFree).fAckFP = s.fAckFP ∧
    (s.bumpFree).panCoord = s.panCoord ∧ (s.bumpFree).beaconEn = s.beaconEn ∧
    (s.bumpFree).dcBeacon = s.dcBeacon ∧ (s.bumpFree).dcBucket = s.dcBucket ∧
    (s.bumpFree).dcTotal = s.dcTotal ∧ (s.bumpFree).dcCur = s.dcCur ∧ (s.bumpFree).dcMode = s.dcMode ∧
    (s.bumpFree).dcRecorded = s.dcRecorded ∧ (s.bumpFree).diag = s.diag ∧ (s.bumpFree).out = s.out ∧
    (s.bumpFree).sched = s.sched ∧ (s.bumpFree).draws = { s.draws with free := s.draws.free + 1 } ∧
    (s.bumpFree).busData = s.busData := by
  and_intros <;> rfl

/-- build(s, ...) (40_scheduler.md R231). -/
@[simp] theorem State.build_fields (s : State) (x : Slot) (t : Trigger) (n : Option Slot) (c : Cond) (p q w : Word) :
    (s.build x t n c p q w).cfg = s.cfg ∧ (s.build x t n c p q w).init = s.init ∧
    (s.build x t n c p q w).fatal = s.fatal ∧ (s.build x t n c p q w).ringAllocated = s.ringAllocated ∧
    (s.build x t n c p q w).faults = s.faults ∧ (s.build x t n c p q w).arg0 = s.arg0 ∧
    (s.build x t n c p q w).arg1 = s.arg1 ∧ (s.build x t n c p q w).res = s.res ∧
    (s.build x t n c p q w).cntTotal = s.cntTotal ∧ (s.build x t n c p q w).cntRx = s.cntRx ∧
    (s.build x t n c p q w).inflight = s.inflight ∧ (s.build x t n c p q w).progChannel = s.progChannel ∧
    (s.build x t n c p q w).progValid = s.progValid ∧ (s.build x t n c p q w).txPowerCur = s.txPowerCur ∧
    (s.build x t n c p q w).txPowerCurValid = s.txPowerCurValid ∧
    (s.build x t n c p q w).txPowerPend = s.txPowerPend ∧
    (s.build x t n c p q w).txPowerPendValid = s.txPowerPendValid ∧
    (s.build x t n c p q w).desc = s.desc.set x ⟨.idle, t, w, n, c, p, q⟩ ∧
    (s.build x t n c p q w).txAckReq = s.txAckReq ∧ (s.build x t n c p q w).txSeq = s.txSeq ∧
    (s.build x t n c p q w).txDur = s.txDur ∧ (s.build x t n c p q w).ackQueued = s.ackQueued ∧
    (s.build x t n c p q w).ackWait = s.ackWait ∧ (s.build x t n c p q w).ackWaitSeq = s.ackWaitSeq ∧
    (s.build x t n c p q w).bo = s.bo ∧ (s.build x t n c p q w).retryEvt = s.retryEvt ∧
    (s.build x t n c p q w).retryArgs = s.retryArgs ∧ (s.build x t n c p q w).tc = s.tc ∧
    (s.build x t n c p q w).rxState = s.rxState ∧ (s.build x t n c p q w).frameHandle = s.frameHandle ∧
    (s.build x t n c p q w).curEntry = s.curEntry ∧ (s.build x t n c p q w).pf = s.pf ∧
    (s.build x t n c p q w).ring = s.ring ∧ (s.build x t n c p q w).ringData = s.ringData ∧
    (s.build x t n c p q w).radioLast = s.radioLast ∧
    (s.build x t n c p q w).rdIdx = s.rdIdx ∧ (s.build x t n c p q w).fPan = s.fPan ∧
    (s.build x t n c p q w).fShort = s.fShort ∧ (s.build x t n c p q w).fExt = s.fExt ∧
    (s.build x t n c p q w).fAllow = s.fAllow ∧ (s.build x t n c p q w).fPromisc = s.fPromisc ∧
    (s.build x t n c p q w).fEnhAck = s.fEnhAck ∧ (s.build x t n c p q w).fAckFP = s.fAckFP ∧
    (s.build x t n c p q w).panCoord = s.panCoord ∧ (s.build x t n c p q w).beaconEn = s.beaconEn ∧
    (s.build x t n c p q w).dcBeacon = s.dcBeacon ∧ (s.build x t n c p q w).dcBucket = s.dcBucket ∧
    (s.build x t n c p q w).dcTotal = s.dcTotal ∧ (s.build x t n c p q w).dcCur = s.dcCur ∧
    (s.build x t n c p q w).dcMode = s.dcMode ∧ (s.build x t n c p q w).dcRecorded = s.dcRecorded ∧
    (s.build x t n c p q w).diag = s.diag ∧ (s.build x t n c p q w).out = s.out ∧
    (s.build x t n c p q w).sched = s.sched ∧ (s.build x t n c p q w).draws = s.draws ∧
    (s.build x t n c p q w).busData = s.busData := by
  and_intros <;> rfl

/-- The release of the partial frame (20_memory.md R117). -/
@[simp] theorem State.releasePf_fields (s : State) :
    (s.releasePf).cfg = s.cfg ∧ (s.releasePf).init = s.init ∧ (s.releasePf).fatal = s.fatal ∧
    (s.releasePf).ringAllocated = s.ringAllocated ∧ (s.releasePf).faults = s.faults ∧
    (s.releasePf).arg0 = s.arg0 ∧ (s.releasePf).arg1 = s.arg1 ∧ (s.releasePf).res = s.res ∧
    (s.releasePf).cntTotal = s.cntTotal ∧ (s.releasePf).cntRx = s.cntRx ∧
    (s.releasePf).inflight = s.inflight ∧ (s.releasePf).progChannel = s.progChannel ∧
    (s.releasePf).progValid = s.progValid ∧ (s.releasePf).txPowerCur = s.txPowerCur ∧
    (s.releasePf).txPowerCurValid = s.txPowerCurValid ∧ (s.releasePf).txPowerPend = s.txPowerPend ∧
    (s.releasePf).txPowerPendValid = s.txPowerPendValid ∧ (s.releasePf).desc = s.desc ∧
    (s.releasePf).txAckReq = s.txAckReq ∧ (s.releasePf).txSeq = s.txSeq ∧ (s.releasePf).txDur = s.txDur ∧
    (s.releasePf).ackQueued = s.ackQueued ∧ (s.releasePf).ackWait = s.ackWait ∧
    (s.releasePf).ackWaitSeq = s.ackWaitSeq ∧ (s.releasePf).bo = s.bo ∧
    (s.releasePf).retryEvt = s.retryEvt ∧ (s.releasePf).retryArgs = s.retryArgs ∧ (s.releasePf).tc = s.tc ∧
    (s.releasePf).rxState = s.rxState ∧ (s.releasePf).frameHandle = s.frameHandle ∧
    (s.releasePf).curEntry = s.curEntry ∧ (s.releasePf).pf = { s.pf with valid := false } ∧
    (s.releasePf).ring = s.ring ∧ (s.releasePf).ringData = s.ringData ∧
    (s.releasePf).radioLast = s.radioLast ∧ (s.releasePf).rdIdx = s.rdIdx ∧
    (s.releasePf).fPan = s.fPan ∧ (s.releasePf).fShort = s.fShort ∧ (s.releasePf).fExt = s.fExt ∧
    (s.releasePf).fAllow = s.fAllow ∧ (s.releasePf).fPromisc = s.fPromisc ∧
    (s.releasePf).fEnhAck = s.fEnhAck ∧ (s.releasePf).fAckFP = s.fAckFP ∧
    (s.releasePf).panCoord = s.panCoord ∧ (s.releasePf).beaconEn = s.beaconEn ∧
    (s.releasePf).dcBeacon = s.dcBeacon ∧ (s.releasePf).dcBucket = s.dcBucket ∧
    (s.releasePf).dcTotal = s.dcTotal ∧ (s.releasePf).dcCur = s.dcCur ∧ (s.releasePf).dcMode = s.dcMode ∧
    (s.releasePf).dcRecorded = s.dcRecorded ∧ (s.releasePf).diag = s.diag ∧ (s.releasePf).out = s.out ∧
    (s.releasePf).sched = s.sched ∧ (s.releasePf).draws = s.draws ∧ (s.releasePf).busData = s.busData := by
  and_intros <;> rfl

/-- A host write of ARG0 (R105). -/
@[simp] theorem State.writeArg0_fields (s : State) (v : Word) :
    (s.writeArg0 v).cfg = s.cfg ∧ (s.writeArg0 v).init = s.init ∧ (s.writeArg0 v).fatal = s.fatal ∧
    (s.writeArg0 v).ringAllocated = s.ringAllocated ∧ (s.writeArg0 v).faults = s.faults ∧
    (s.writeArg0 v).arg0 = v ∧ (s.writeArg0 v).arg1 = s.arg1 ∧ (s.writeArg0 v).res = s.res ∧
    (s.writeArg0 v).cntTotal = s.cntTotal ∧ (s.writeArg0 v).cntRx = s.cntRx ∧
    (s.writeArg0 v).inflight = s.inflight ∧ (s.writeArg0 v).progChannel = s.progChannel ∧
    (s.writeArg0 v).progValid = s.progValid ∧ (s.writeArg0 v).txPowerCur = s.txPowerCur ∧
    (s.writeArg0 v).txPowerCurValid = s.txPowerCurValid ∧ (s.writeArg0 v).txPowerPend = s.txPowerPend ∧
    (s.writeArg0 v).txPowerPendValid = s.txPowerPendValid ∧ (s.writeArg0 v).desc = s.desc ∧
    (s.writeArg0 v).txAckReq = s.txAckReq ∧ (s.writeArg0 v).txSeq = s.txSeq ∧
    (s.writeArg0 v).txDur = s.txDur ∧ (s.writeArg0 v).ackQueued = s.ackQueued ∧
    (s.writeArg0 v).ackWait = s.ackWait ∧ (s.writeArg0 v).ackWaitSeq = s.ackWaitSeq ∧
    (s.writeArg0 v).bo = s.bo ∧ (s.writeArg0 v).retryEvt = s.retryEvt ∧
    (s.writeArg0 v).retryArgs = s.retryArgs ∧ (s.writeArg0 v).tc = s.tc ∧
    (s.writeArg0 v).rxState = s.rxState ∧ (s.writeArg0 v).frameHandle = s.frameHandle ∧
    (s.writeArg0 v).curEntry = s.curEntry ∧ (s.writeArg0 v).pf = s.pf ∧ (s.writeArg0 v).ring = s.ring ∧
    (s.writeArg0 v).ringData = s.ringData ∧
    (s.writeArg0 v).radioLast = s.radioLast ∧ (s.writeArg0 v).rdIdx = s.rdIdx ∧
    (s.writeArg0 v).fPan = s.fPan ∧ (s.writeArg0 v).fShort = s.fShort ∧ (s.writeArg0 v).fExt = s.fExt ∧
    (s.writeArg0 v).fAllow = s.fAllow ∧ (s.writeArg0 v).fPromisc = s.fPromisc ∧
    (s.writeArg0 v).fEnhAck = s.fEnhAck ∧ (s.writeArg0 v).fAckFP = s.fAckFP ∧
    (s.writeArg0 v).panCoord = s.panCoord ∧ (s.writeArg0 v).beaconEn = s.beaconEn ∧
    (s.writeArg0 v).dcBeacon = s.dcBeacon ∧ (s.writeArg0 v).dcBucket = s.dcBucket ∧
    (s.writeArg0 v).dcTotal = s.dcTotal ∧ (s.writeArg0 v).dcCur = s.dcCur ∧
    (s.writeArg0 v).dcMode = s.dcMode ∧ (s.writeArg0 v).dcRecorded = s.dcRecorded ∧
    (s.writeArg0 v).diag = s.diag ∧ (s.writeArg0 v).out = s.out ∧ (s.writeArg0 v).sched = s.sched ∧
    (s.writeArg0 v).draws = s.draws ∧ (s.writeArg0 v).busData = s.busData := by
  and_intros <;> rfl

/-- A host write of ARG1 (R105). -/
@[simp] theorem State.writeArg1_fields (s : State) (v : Word) :
    (s.writeArg1 v).cfg = s.cfg ∧ (s.writeArg1 v).init = s.init ∧ (s.writeArg1 v).fatal = s.fatal ∧
    (s.writeArg1 v).ringAllocated = s.ringAllocated ∧ (s.writeArg1 v).faults = s.faults ∧
    (s.writeArg1 v).arg0 = s.arg0 ∧ (s.writeArg1 v).arg1 = v ∧ (s.writeArg1 v).res = s.res ∧
    (s.writeArg1 v).cntTotal = s.cntTotal ∧ (s.writeArg1 v).cntRx = s.cntRx ∧
    (s.writeArg1 v).inflight = s.inflight ∧ (s.writeArg1 v).progChannel = s.progChannel ∧
    (s.writeArg1 v).progValid = s.progValid ∧ (s.writeArg1 v).txPowerCur = s.txPowerCur ∧
    (s.writeArg1 v).txPowerCurValid = s.txPowerCurValid ∧ (s.writeArg1 v).txPowerPend = s.txPowerPend ∧
    (s.writeArg1 v).txPowerPendValid = s.txPowerPendValid ∧ (s.writeArg1 v).desc = s.desc ∧
    (s.writeArg1 v).txAckReq = s.txAckReq ∧ (s.writeArg1 v).txSeq = s.txSeq ∧
    (s.writeArg1 v).txDur = s.txDur ∧ (s.writeArg1 v).ackQueued = s.ackQueued ∧
    (s.writeArg1 v).ackWait = s.ackWait ∧ (s.writeArg1 v).ackWaitSeq = s.ackWaitSeq ∧
    (s.writeArg1 v).bo = s.bo ∧ (s.writeArg1 v).retryEvt = s.retryEvt ∧
    (s.writeArg1 v).retryArgs = s.retryArgs ∧ (s.writeArg1 v).tc = s.tc ∧
    (s.writeArg1 v).rxState = s.rxState ∧ (s.writeArg1 v).frameHandle = s.frameHandle ∧
    (s.writeArg1 v).curEntry = s.curEntry ∧ (s.writeArg1 v).pf = s.pf ∧ (s.writeArg1 v).ring = s.ring ∧
    (s.writeArg1 v).ringData = s.ringData ∧
    (s.writeArg1 v).radioLast = s.radioLast ∧ (s.writeArg1 v).rdIdx = s.rdIdx ∧
    (s.writeArg1 v).fPan = s.fPan ∧ (s.writeArg1 v).fShort = s.fShort ∧ (s.writeArg1 v).fExt = s.fExt ∧
    (s.writeArg1 v).fAllow = s.fAllow ∧ (s.writeArg1 v).fPromisc = s.fPromisc ∧
    (s.writeArg1 v).fEnhAck = s.fEnhAck ∧ (s.writeArg1 v).fAckFP = s.fAckFP ∧
    (s.writeArg1 v).panCoord = s.panCoord ∧ (s.writeArg1 v).beaconEn = s.beaconEn ∧
    (s.writeArg1 v).dcBeacon = s.dcBeacon ∧ (s.writeArg1 v).dcBucket = s.dcBucket ∧
    (s.writeArg1 v).dcTotal = s.dcTotal ∧ (s.writeArg1 v).dcCur = s.dcCur ∧
    (s.writeArg1 v).dcMode = s.dcMode ∧ (s.writeArg1 v).dcRecorded = s.dcRecorded ∧
    (s.writeArg1 v).diag = s.diag ∧ (s.writeArg1 v).out = s.out ∧ (s.writeArg1 v).sched = s.sched ∧
    (s.writeArg1 v).draws = s.draws ∧ (s.writeArg1 v).busData = s.busData := by
  and_intros <;> rfl

/-- The channel an accepted submission tuned to (10_state.md R38). -/
@[simp] theorem State.setProgrammed_fields (s : State) (ch : Half) :
    (s.setProgrammed ch).cfg = s.cfg ∧ (s.setProgrammed ch).init = s.init ∧
    (s.setProgrammed ch).fatal = s.fatal ∧ (s.setProgrammed ch).ringAllocated = s.ringAllocated ∧
    (s.setProgrammed ch).faults = s.faults ∧ (s.setProgrammed ch).arg0 = s.arg0 ∧
    (s.setProgrammed ch).arg1 = s.arg1 ∧ (s.setProgrammed ch).res = s.res ∧
    (s.setProgrammed ch).cntTotal = s.cntTotal ∧ (s.setProgrammed ch).cntRx = s.cntRx ∧
    (s.setProgrammed ch).inflight = s.inflight ∧ (s.setProgrammed ch).progChannel = ch ∧
    (s.setProgrammed ch).progValid = true ∧ (s.setProgrammed ch).txPowerCur = s.txPowerCur ∧
    (s.setProgrammed ch).txPowerCurValid = s.txPowerCurValid ∧
    (s.setProgrammed ch).txPowerPend = s.txPowerPend ∧
    (s.setProgrammed ch).txPowerPendValid = s.txPowerPendValid ∧ (s.setProgrammed ch).desc = s.desc ∧
    (s.setProgrammed ch).txAckReq = s.txAckReq ∧ (s.setProgrammed ch).txSeq = s.txSeq ∧
    (s.setProgrammed ch).txDur = s.txDur ∧ (s.setProgrammed ch).ackQueued = s.ackQueued ∧
    (s.setProgrammed ch).ackWait = s.ackWait ∧ (s.setProgrammed ch).ackWaitSeq = s.ackWaitSeq ∧
    (s.setProgrammed ch).bo = s.bo ∧ (s.setProgrammed ch).retryEvt = s.retryEvt ∧
    (s.setProgrammed ch).retryArgs = s.retryArgs ∧ (s.setProgrammed ch).tc = s.tc ∧
    (s.setProgrammed ch).rxState = s.rxState ∧ (s.setProgrammed ch).frameHandle = s.frameHandle ∧
    (s.setProgrammed ch).curEntry = s.curEntry ∧ (s.setProgrammed ch).pf = s.pf ∧
    (s.setProgrammed ch).ring = s.ring ∧ (s.setProgrammed ch).ringData = s.ringData ∧
    (s.setProgrammed ch).radioLast = s.radioLast ∧
    (s.setProgrammed ch).rdIdx = s.rdIdx ∧ (s.setProgrammed ch).fPan = s.fPan ∧
    (s.setProgrammed ch).fShort = s.fShort ∧ (s.setProgrammed ch).fExt = s.fExt ∧
    (s.setProgrammed ch).fAllow = s.fAllow ∧ (s.setProgrammed ch).fPromisc = s.fPromisc ∧
    (s.setProgrammed ch).fEnhAck = s.fEnhAck ∧ (s.setProgrammed ch).fAckFP = s.fAckFP ∧
    (s.setProgrammed ch).panCoord = s.panCoord ∧ (s.setProgrammed ch).beaconEn = s.beaconEn ∧
    (s.setProgrammed ch).dcBeacon = s.dcBeacon ∧ (s.setProgrammed ch).dcBucket = s.dcBucket ∧
    (s.setProgrammed ch).dcTotal = s.dcTotal ∧ (s.setProgrammed ch).dcCur = s.dcCur ∧
    (s.setProgrammed ch).dcMode = s.dcMode ∧ (s.setProgrammed ch).dcRecorded = s.dcRecorded ∧
    (s.setProgrammed ch).diag = s.diag ∧ (s.setProgrammed ch).out = s.out ∧
    (s.setProgrammed ch).sched = s.sched ∧ (s.setProgrammed ch).draws = s.draws ∧
    (s.setProgrammed ch).busData = s.busData := by
  and_intros <;> rfl

/-- The operands of a rejected submission (R45). -/
@[simp] theorem State.storeRetry_fields (s : State) (c : OpClass) (a : RetryArgs) :
    (s.storeRetry c a).cfg = s.cfg ∧ (s.storeRetry c a).init = s.init ∧
    (s.storeRetry c a).fatal = s.fatal ∧ (s.storeRetry c a).ringAllocated = s.ringAllocated ∧
    (s.storeRetry c a).faults = s.faults ∧ (s.storeRetry c a).arg0 = s.arg0 ∧
    (s.storeRetry c a).arg1 = s.arg1 ∧ (s.storeRetry c a).res = s.res ∧
    (s.storeRetry c a).cntTotal = s.cntTotal ∧ (s.storeRetry c a).cntRx = s.cntRx ∧
    (s.storeRetry c a).inflight = s.inflight ∧ (s.storeRetry c a).progChannel = s.progChannel ∧
    (s.storeRetry c a).progValid = s.progValid ∧ (s.storeRetry c a).txPowerCur = s.txPowerCur ∧
    (s.storeRetry c a).txPowerCurValid = s.txPowerCurValid ∧
    (s.storeRetry c a).txPowerPend = s.txPowerPend ∧
    (s.storeRetry c a).txPowerPendValid = s.txPowerPendValid ∧ (s.storeRetry c a).desc = s.desc ∧
    (s.storeRetry c a).txAckReq = s.txAckReq ∧ (s.storeRetry c a).txSeq = s.txSeq ∧
    (s.storeRetry c a).txDur = s.txDur ∧ (s.storeRetry c a).ackQueued = s.ackQueued ∧
    (s.storeRetry c a).ackWait = s.ackWait ∧ (s.storeRetry c a).ackWaitSeq = s.ackWaitSeq ∧
    (s.storeRetry c a).bo = s.bo ∧ (s.storeRetry c a).retryEvt = s.retryEvt ∧
    (s.storeRetry c a).retryArgs = s.retryArgs.set c a ∧ (s.storeRetry c a).tc = s.tc ∧
    (s.storeRetry c a).rxState = s.rxState ∧ (s.storeRetry c a).frameHandle = s.frameHandle ∧
    (s.storeRetry c a).curEntry = s.curEntry ∧ (s.storeRetry c a).pf = s.pf ∧
    (s.storeRetry c a).ring = s.ring ∧ (s.storeRetry c a).ringData = s.ringData ∧
    (s.storeRetry c a).radioLast = s.radioLast ∧
    (s.storeRetry c a).rdIdx = s.rdIdx ∧ (s.storeRetry c a).fPan = s.fPan ∧
    (s.storeRetry c a).fShort = s.fShort ∧ (s.storeRetry c a).fExt = s.fExt ∧
    (s.storeRetry c a).fAllow = s.fAllow ∧ (s.storeRetry c a).fPromisc = s.fPromisc ∧
    (s.storeRetry c a).fEnhAck = s.fEnhAck ∧ (s.storeRetry c a).fAckFP = s.fAckFP ∧
    (s.storeRetry c a).panCoord = s.panCoord ∧ (s.storeRetry c a).beaconEn = s.beaconEn ∧
    (s.storeRetry c a).dcBeacon = s.dcBeacon ∧ (s.storeRetry c a).dcBucket = s.dcBucket ∧
    (s.storeRetry c a).dcTotal = s.dcTotal ∧ (s.storeRetry c a).dcCur = s.dcCur ∧
    (s.storeRetry c a).dcMode = s.dcMode ∧ (s.storeRetry c a).dcRecorded = s.dcRecorded ∧
    (s.storeRetry c a).diag = s.diag ∧ (s.storeRetry c a).out = s.out ∧
    (s.storeRetry c a).sched = s.sched ∧ (s.storeRetry c a).draws = s.draws ∧
    (s.storeRetry c a).busData = s.busData := by
  and_intros <;> rfl

/-- What a successful submission clears (40_scheduler.md R234, R241, R246). -/
@[simp] theorem State.clearBackoff_fields (s : State) (c : OpClass) :
    (s.clearBackoff c).cfg = s.cfg ∧ (s.clearBackoff c).init = s.init ∧
    (s.clearBackoff c).fatal = s.fatal ∧ (s.clearBackoff c).ringAllocated = s.ringAllocated ∧
    (s.clearBackoff c).faults = s.faults ∧ (s.clearBackoff c).arg0 = s.arg0 ∧
    (s.clearBackoff c).arg1 = s.arg1 ∧ (s.clearBackoff c).res = s.res ∧
    (s.clearBackoff c).cntTotal = s.cntTotal ∧ (s.clearBackoff c).cntRx = s.cntRx ∧
    (s.clearBackoff c).inflight = s.inflight ∧ (s.clearBackoff c).progChannel = s.progChannel ∧
    (s.clearBackoff c).progValid = s.progValid ∧ (s.clearBackoff c).txPowerCur = s.txPowerCur ∧
    (s.clearBackoff c).txPowerCurValid = s.txPowerCurValid ∧
    (s.clearBackoff c).txPowerPend = s.txPowerPend ∧
    (s.clearBackoff c).txPowerPendValid = s.txPowerPendValid ∧ (s.clearBackoff c).desc = s.desc ∧
    (s.clearBackoff c).txAckReq = s.txAckReq ∧ (s.clearBackoff c).txSeq = s.txSeq ∧
    (s.clearBackoff c).txDur = s.txDur ∧ (s.clearBackoff c).ackQueued = s.ackQueued ∧
    (s.clearBackoff c).ackWait = s.ackWait ∧ (s.clearBackoff c).ackWaitSeq = s.ackWaitSeq ∧
    (s.clearBackoff c).bo = s.bo.set c ⟨false, (s.bo.get c).delay⟩ ∧
    (s.clearBackoff c).retryEvt = s.retryEvt.set c false ∧
    (s.clearBackoff c).retryArgs = s.retryArgs.set c { s.retryArgs.get c with valid := false } ∧
    (s.clearBackoff c).tc = s.tc ∧ (s.clearBackoff c).rxState = s.rxState ∧
    (s.clearBackoff c).frameHandle = s.frameHandle ∧ (s.clearBackoff c).curEntry = s.curEntry ∧
    (s.clearBackoff c).pf = s.pf ∧ (s.clearBackoff c).ring = s.ring ∧
    (s.clearBackoff c).ringData = s.ringData ∧
    (s.clearBackoff c).radioLast = s.radioLast ∧ (s.clearBackoff c).rdIdx = s.rdIdx ∧
    (s.clearBackoff c).fPan = s.fPan ∧ (s.clearBackoff c).fShort = s.fShort ∧
    (s.clearBackoff c).fExt = s.fExt ∧ (s.clearBackoff c).fAllow = s.fAllow ∧
    (s.clearBackoff c).fPromisc = s.fPromisc ∧ (s.clearBackoff c).fEnhAck = s.fEnhAck ∧
    (s.clearBackoff c).fAckFP = s.fAckFP ∧ (s.clearBackoff c).panCoord = s.panCoord ∧
    (s.clearBackoff c).beaconEn = s.beaconEn ∧ (s.clearBackoff c).dcBeacon = s.dcBeacon ∧
    (s.clearBackoff c).dcBucket = s.dcBucket ∧ (s.clearBackoff c).dcTotal = s.dcTotal ∧
    (s.clearBackoff c).dcCur = s.dcCur ∧ (s.clearBackoff c).dcMode = s.dcMode ∧
    (s.clearBackoff c).dcRecorded = s.dcRecorded ∧ (s.clearBackoff c).diag = s.diag ∧
    (s.clearBackoff c).out = s.out ∧ (s.clearBackoff c).sched = s.sched ∧
    (s.clearBackoff c).draws = s.draws ∧ (s.clearBackoff c).busData = s.busData := by
  and_intros <;> rfl

/-- The transmit context (10_state.md R43). -/
@[simp] theorem State.setTxContext_fields (s : State) (f : BitVec 4) (a b : Word) :
    (s.setTxContext f a b).cfg = s.cfg ∧ (s.setTxContext f a b).init = s.init ∧
    (s.setTxContext f a b).fatal = s.fatal ∧ (s.setTxContext f a b).ringAllocated = s.ringAllocated ∧
    (s.setTxContext f a b).faults = s.faults ∧ (s.setTxContext f a b).arg0 = s.arg0 ∧
    (s.setTxContext f a b).arg1 = s.arg1 ∧ (s.setTxContext f a b).res = s.res ∧
    (s.setTxContext f a b).cntTotal = s.cntTotal ∧ (s.setTxContext f a b).cntRx = s.cntRx ∧
    (s.setTxContext f a b).inflight = s.inflight ∧ (s.setTxContext f a b).progChannel = s.progChannel ∧
    (s.setTxContext f a b).progValid = s.progValid ∧ (s.setTxContext f a b).txPowerCur = s.txPowerCur ∧
    (s.setTxContext f a b).txPowerCurValid = s.txPowerCurValid ∧
    (s.setTxContext f a b).txPowerPend = s.txPowerPend ∧
    (s.setTxContext f a b).txPowerPendValid = s.txPowerPendValid ∧ (s.setTxContext f a b).desc = s.desc ∧
    (s.setTxContext f a b).txAckReq = f.getLsbD 0 ∧ (s.setTxContext f a b).txSeq = txSeqField b ∧
    (s.setTxContext f a b).txDur = a ∧ (s.setTxContext f a b).ackQueued = s.ackQueued ∧
    (s.setTxContext f a b).ackWait = s.ackWait ∧ (s.setTxContext f a b).ackWaitSeq = s.ackWaitSeq ∧
    (s.setTxContext f a b).bo = s.bo ∧ (s.setTxContext f a b).retryEvt = s.retryEvt ∧
    (s.setTxContext f a b).retryArgs = s.retryArgs ∧ (s.setTxContext f a b).tc = s.tc ∧
    (s.setTxContext f a b).rxState = s.rxState ∧ (s.setTxContext f a b).frameHandle = s.frameHandle ∧
    (s.setTxContext f a b).curEntry = s.curEntry ∧ (s.setTxContext f a b).pf = s.pf ∧
    (s.setTxContext f a b).ring = s.ring ∧ (s.setTxContext f a b).ringData = s.ringData ∧
    (s.setTxContext f a b).radioLast = s.radioLast ∧
    (s.setTxContext f a b).rdIdx = s.rdIdx ∧ (s.setTxContext f a b).fPan = s.fPan ∧
    (s.setTxContext f a b).fShort = s.fShort ∧ (s.setTxContext f a b).fExt = s.fExt ∧
    (s.setTxContext f a b).fAllow = s.fAllow ∧ (s.setTxContext f a b).fPromisc = s.fPromisc ∧
    (s.setTxContext f a b).fEnhAck = s.fEnhAck ∧ (s.setTxContext f a b).fAckFP = s.fAckFP ∧
    (s.setTxContext f a b).panCoord = s.panCoord ∧ (s.setTxContext f a b).beaconEn = s.beaconEn ∧
    (s.setTxContext f a b).dcBeacon = s.dcBeacon ∧ (s.setTxContext f a b).dcBucket = s.dcBucket ∧
    (s.setTxContext f a b).dcTotal = s.dcTotal ∧ (s.setTxContext f a b).dcCur = s.dcCur ∧
    (s.setTxContext f a b).dcMode = s.dcMode ∧ (s.setTxContext f a b).dcRecorded = s.dcRecorded ∧
    (s.setTxContext f a b).diag = s.diag ∧ (s.setTxContext f a b).out = s.out ∧
    (s.setTxContext f a b).sched = s.sched ∧ (s.setTxContext f a b).draws = s.draws ∧
    (s.setTxContext f a b).busData = s.busData := by
  and_intros <;> rfl

/-- STOP_ALL's rewrite of CCA.next (40_scheduler.md R248). -/
@[simp] theorem State.unlinkCca_fields (s : State) :
    (s.unlinkCca).cfg = s.cfg ∧ (s.unlinkCca).init = s.init ∧ (s.unlinkCca).fatal = s.fatal ∧
    (s.unlinkCca).ringAllocated = s.ringAllocated ∧ (s.unlinkCca).faults = s.faults ∧
    (s.unlinkCca).arg0 = s.arg0 ∧ (s.unlinkCca).arg1 = s.arg1 ∧ (s.unlinkCca).res = s.res ∧
    (s.unlinkCca).cntTotal = s.cntTotal ∧ (s.unlinkCca).cntRx = s.cntRx ∧
    (s.unlinkCca).inflight = s.inflight ∧ (s.unlinkCca).progChannel = s.progChannel ∧
    (s.unlinkCca).progValid = s.progValid ∧ (s.unlinkCca).txPowerCur = s.txPowerCur ∧
    (s.unlinkCca).txPowerCurValid = s.txPowerCurValid ∧ (s.unlinkCca).txPowerPend = s.txPowerPend ∧
    (s.unlinkCca).txPowerPendValid = s.txPowerPendValid ∧
    (s.unlinkCca).desc = { s.desc with cca := { s.desc.cca with next := none } } ∧
    (s.unlinkCca).txAckReq = s.txAckReq ∧ (s.unlinkCca).txSeq = s.txSeq ∧ (s.unlinkCca).txDur = s.txDur ∧
    (s.unlinkCca).ackQueued = s.ackQueued ∧ (s.unlinkCca).ackWait = s.ackWait ∧
    (s.unlinkCca).ackWaitSeq = s.ackWaitSeq ∧ (s.unlinkCca).bo = s.bo ∧
    (s.unlinkCca).retryEvt = s.retryEvt ∧ (s.unlinkCca).retryArgs = s.retryArgs ∧ (s.unlinkCca).tc = s.tc ∧
    (s.unlinkCca).rxState = s.rxState ∧ (s.unlinkCca).frameHandle = s.frameHandle ∧
    (s.unlinkCca).curEntry = s.curEntry ∧ (s.unlinkCca).pf = s.pf ∧ (s.unlinkCca).ring = s.ring ∧
    (s.unlinkCca).ringData = s.ringData ∧
    (s.unlinkCca).radioLast = s.radioLast ∧ (s.unlinkCca).rdIdx = s.rdIdx ∧ (s.unlinkCca).fPan = s.fPan ∧
    (s.unlinkCca).fShort = s.fShort ∧ (s.unlinkCca).fExt = s.fExt ∧ (s.unlinkCca).fAllow = s.fAllow ∧
    (s.unlinkCca).fPromisc = s.fPromisc ∧ (s.unlinkCca).fEnhAck = s.fEnhAck ∧
    (s.unlinkCca).fAckFP = s.fAckFP ∧ (s.unlinkCca).panCoord = s.panCoord ∧
    (s.unlinkCca).beaconEn = s.beaconEn ∧ (s.unlinkCca).dcBeacon = s.dcBeacon ∧
    (s.unlinkCca).dcBucket = s.dcBucket ∧ (s.unlinkCca).dcTotal = s.dcTotal ∧
    (s.unlinkCca).dcCur = s.dcCur ∧ (s.unlinkCca).dcMode = s.dcMode ∧
    (s.unlinkCca).dcRecorded = s.dcRecorded ∧ (s.unlinkCca).diag = s.diag ∧ (s.unlinkCca).out = s.out ∧
    (s.unlinkCca).sched = s.sched ∧ (s.unlinkCca).draws = s.draws ∧ (s.unlinkCca).busData = s.busData := by
  and_intros <;> rfl

/-- BO_EXPIRE(c) (43_backoff_timers.md R432). -/
@[simp] theorem State.boExpire_fields (s : State) (c : OpClass) :
    (s.boExpire c).cfg = s.cfg ∧ (s.boExpire c).init = s.init ∧ (s.boExpire c).fatal = s.fatal ∧
    (s.boExpire c).ringAllocated = s.ringAllocated ∧ (s.boExpire c).faults = s.faults ∧
    (s.boExpire c).arg0 = s.arg0 ∧ (s.boExpire c).arg1 = s.arg1 ∧ (s.boExpire c).res = s.res ∧
    (s.boExpire c).cntTotal = s.cntTotal ∧ (s.boExpire c).cntRx = s.cntRx ∧
    (s.boExpire c).inflight = s.inflight ∧ (s.boExpire c).progChannel = s.progChannel ∧
    (s.boExpire c).progValid = s.progValid ∧ (s.boExpire c).txPowerCur = s.txPowerCur ∧
    (s.boExpire c).txPowerCurValid = s.txPowerCurValid ∧ (s.boExpire c).txPowerPend = s.txPowerPend ∧
    (s.boExpire c).txPowerPendValid = s.txPowerPendValid ∧ (s.boExpire c).desc = s.desc ∧
    (s.boExpire c).txAckReq = s.txAckReq ∧ (s.boExpire c).txSeq = s.txSeq ∧
    (s.boExpire c).txDur = s.txDur ∧ (s.boExpire c).ackQueued = s.ackQueued ∧
    (s.boExpire c).ackWait = s.ackWait ∧ (s.boExpire c).ackWaitSeq = s.ackWaitSeq ∧
    (s.boExpire c).bo = s.bo.set c ⟨false, (s.bo.get c).delay⟩ ∧
    (s.boExpire c).retryEvt = s.retryEvt.set c true ∧ (s.boExpire c).retryArgs = s.retryArgs ∧
    (s.boExpire c).tc = s.tc ∧ (s.boExpire c).rxState = s.rxState ∧
    (s.boExpire c).frameHandle = s.frameHandle ∧ (s.boExpire c).curEntry = s.curEntry ∧
    (s.boExpire c).pf = s.pf ∧ (s.boExpire c).ring = s.ring ∧ (s.boExpire c).ringData = s.ringData ∧
    (s.boExpire c).radioLast = s.radioLast ∧
    (s.boExpire c).rdIdx = s.rdIdx ∧ (s.boExpire c).fPan = s.fPan ∧ (s.boExpire c).fShort = s.fShort ∧
    (s.boExpire c).fExt = s.fExt ∧ (s.boExpire c).fAllow = s.fAllow ∧
    (s.boExpire c).fPromisc = s.fPromisc ∧ (s.boExpire c).fEnhAck = s.fEnhAck ∧
    (s.boExpire c).fAckFP = s.fAckFP ∧ (s.boExpire c).panCoord = s.panCoord ∧
    (s.boExpire c).beaconEn = s.beaconEn ∧ (s.boExpire c).dcBeacon = s.dcBeacon ∧
    (s.boExpire c).dcBucket = s.dcBucket ∧ (s.boExpire c).dcTotal = s.dcTotal ∧
    (s.boExpire c).dcCur = s.dcCur ∧ (s.boExpire c).dcMode = s.dcMode ∧
    (s.boExpire c).dcRecorded = s.dcRecorded ∧ (s.boExpire c).diag = s.diag ∧
    (s.boExpire c).out = s.out ++ [.backoffExpired c] ∧ (s.boExpire c).sched = s.sched ∧
    (s.boExpire c).draws = s.draws ∧ (s.boExpire c).busData = s.busData := by
  and_intros <;> rfl

/-- ACKWAIT_EXPIRE (R441). -/
@[simp] theorem State.ackWaitExpire_fields (s : State) :
    (s.ackWaitExpire).cfg = s.cfg ∧ (s.ackWaitExpire).init = s.init ∧ (s.ackWaitExpire).fatal = s.fatal ∧
    (s.ackWaitExpire).ringAllocated = s.ringAllocated ∧ (s.ackWaitExpire).faults = s.faults ∧
    (s.ackWaitExpire).arg0 = s.arg0 ∧ (s.ackWaitExpire).arg1 = s.arg1 ∧ (s.ackWaitExpire).res = s.res ∧
    (s.ackWaitExpire).cntTotal = s.cntTotal ∧ (s.ackWaitExpire).cntRx = s.cntRx ∧
    (s.ackWaitExpire).inflight = s.inflight ∧ (s.ackWaitExpire).progChannel = s.progChannel ∧
    (s.ackWaitExpire).progValid = s.progValid ∧ (s.ackWaitExpire).txPowerCur = s.txPowerCur ∧
    (s.ackWaitExpire).txPowerCurValid = s.txPowerCurValid ∧ (s.ackWaitExpire).txPowerPend = s.txPowerPend ∧
    (s.ackWaitExpire).txPowerPendValid = s.txPowerPendValid ∧ (s.ackWaitExpire).desc = s.desc ∧
    (s.ackWaitExpire).txAckReq = s.txAckReq ∧ (s.ackWaitExpire).txSeq = s.txSeq ∧
    (s.ackWaitExpire).txDur = s.txDur ∧ (s.ackWaitExpire).ackQueued = s.ackQueued ∧
    (s.ackWaitExpire).ackWait = false ∧ (s.ackWaitExpire).ackWaitSeq = s.ackWaitSeq ∧
    (s.ackWaitExpire).bo = s.bo ∧ (s.ackWaitExpire).retryEvt = s.retryEvt ∧
    (s.ackWaitExpire).retryArgs = s.retryArgs ∧ (s.ackWaitExpire).tc = s.tc ∧
    (s.ackWaitExpire).rxState = s.rxState ∧ (s.ackWaitExpire).frameHandle = s.frameHandle ∧
    (s.ackWaitExpire).curEntry = s.curEntry ∧ (s.ackWaitExpire).pf = s.pf ∧
    (s.ackWaitExpire).ring = s.ring ∧ (s.ackWaitExpire).ringData = s.ringData ∧
    (s.ackWaitExpire).radioLast = s.radioLast ∧
    (s.ackWaitExpire).rdIdx = s.rdIdx ∧ (s.ackWaitExpire).fPan = s.fPan ∧
    (s.ackWaitExpire).fShort = s.fShort ∧ (s.ackWaitExpire).fExt = s.fExt ∧
    (s.ackWaitExpire).fAllow = s.fAllow ∧ (s.ackWaitExpire).fPromisc = s.fPromisc ∧
    (s.ackWaitExpire).fEnhAck = s.fEnhAck ∧ (s.ackWaitExpire).fAckFP = s.fAckFP ∧
    (s.ackWaitExpire).panCoord = s.panCoord ∧ (s.ackWaitExpire).beaconEn = s.beaconEn ∧
    (s.ackWaitExpire).dcBeacon = s.dcBeacon ∧ (s.ackWaitExpire).dcBucket = s.dcBucket ∧
    (s.ackWaitExpire).dcTotal = s.dcTotal ∧ (s.ackWaitExpire).dcCur = s.dcCur ∧
    (s.ackWaitExpire).dcMode = s.dcMode ∧ (s.ackWaitExpire).dcRecorded = s.dcRecorded ∧
    (s.ackWaitExpire).diag = s.diag ∧ (s.ackWaitExpire).out = s.out ++ [.ackNotReceived] ∧
    (s.ackWaitExpire).sched = s.sched ∧ (s.ackWaitExpire).draws = s.draws ∧
    (s.ackWaitExpire).busData = s.busData := by
  and_intros <;> rfl

/-- SetTxPower(v) (40_scheduler.md R250, R251). -/
@[simp] theorem State.applyPower_fields (s : State) (v : Half) :
    (s.applyPower v).cfg = s.cfg ∧ (s.applyPower v).init = s.init ∧ (s.applyPower v).fatal = s.fatal ∧
    (s.applyPower v).ringAllocated = s.ringAllocated ∧ (s.applyPower v).faults = s.faults ∧
    (s.applyPower v).arg0 = s.arg0 ∧ (s.applyPower v).arg1 = s.arg1 ∧ (s.applyPower v).res = s.res ∧
    (s.applyPower v).cntTotal = s.cntTotal ∧ (s.applyPower v).cntRx = s.cntRx ∧
    (s.applyPower v).inflight = s.inflight ∧ (s.applyPower v).progChannel = s.progChannel ∧
    (s.applyPower v).progValid = s.progValid ∧ (s.applyPower v).txPowerCur = v ∧
    (s.applyPower v).txPowerCurValid = true ∧ (s.applyPower v).txPowerPend = s.txPowerPend ∧
    (s.applyPower v).txPowerPendValid = false ∧ (s.applyPower v).desc = s.desc ∧
    (s.applyPower v).txAckReq = s.txAckReq ∧ (s.applyPower v).txSeq = s.txSeq ∧
    (s.applyPower v).txDur = s.txDur ∧ (s.applyPower v).ackQueued = s.ackQueued ∧
    (s.applyPower v).ackWait = s.ackWait ∧ (s.applyPower v).ackWaitSeq = s.ackWaitSeq ∧
    (s.applyPower v).bo = s.bo ∧ (s.applyPower v).retryEvt = s.retryEvt ∧
    (s.applyPower v).retryArgs = s.retryArgs ∧ (s.applyPower v).tc = s.tc ∧
    (s.applyPower v).rxState = s.rxState ∧ (s.applyPower v).frameHandle = s.frameHandle ∧
    (s.applyPower v).curEntry = s.curEntry ∧ (s.applyPower v).pf = s.pf ∧ (s.applyPower v).ring = s.ring ∧
    (s.applyPower v).ringData = s.ringData ∧
    (s.applyPower v).radioLast = s.radioLast ∧ (s.applyPower v).rdIdx = s.rdIdx ∧
    (s.applyPower v).fPan = s.fPan ∧ (s.applyPower v).fShort = s.fShort ∧ (s.applyPower v).fExt = s.fExt ∧
    (s.applyPower v).fAllow = s.fAllow ∧ (s.applyPower v).fPromisc = s.fPromisc ∧
    (s.applyPower v).fEnhAck = s.fEnhAck ∧ (s.applyPower v).fAckFP = s.fAckFP ∧
    (s.applyPower v).panCoord = s.panCoord ∧ (s.applyPower v).beaconEn = s.beaconEn ∧
    (s.applyPower v).dcBeacon = s.dcBeacon ∧ (s.applyPower v).dcBucket = s.dcBucket ∧
    (s.applyPower v).dcTotal = s.dcTotal ∧ (s.applyPower v).dcCur = s.dcCur ∧
    (s.applyPower v).dcMode = s.dcMode ∧ (s.applyPower v).dcRecorded = s.dcRecorded ∧
    (s.applyPower v).diag = s.diag ∧ (s.applyPower v).out = s.out ++ [.setTxPower v] ∧
    (s.applyPower v).sched = s.sched ∧ (s.applyPower v).draws = s.draws ∧
    (s.applyPower v).busData = s.busData := by
  and_intros <;> rfl

/-- The arming of a timer-compare channel (R253). -/
@[simp] theorem State.armTc_fields (s : State) (ch : TcChan) (cb : Half) (d : Word) :
    (s.armTc ch cb d).cfg = s.cfg ∧ (s.armTc ch cb d).init = s.init ∧ (s.armTc ch cb d).fatal = s.fatal ∧
    (s.armTc ch cb d).ringAllocated = s.ringAllocated ∧ (s.armTc ch cb d).faults = s.faults ∧
    (s.armTc ch cb d).arg0 = s.arg0 ∧ (s.armTc ch cb d).arg1 = s.arg1 ∧ (s.armTc ch cb d).res = s.res ∧
    (s.armTc ch cb d).cntTotal = s.cntTotal ∧ (s.armTc ch cb d).cntRx = s.cntRx ∧
    (s.armTc ch cb d).inflight = s.inflight ∧ (s.armTc ch cb d).progChannel = s.progChannel ∧
    (s.armTc ch cb d).progValid = s.progValid ∧ (s.armTc ch cb d).txPowerCur = s.txPowerCur ∧
    (s.armTc ch cb d).txPowerCurValid = s.txPowerCurValid ∧ (s.armTc ch cb d).txPowerPend = s.txPowerPend ∧
    (s.armTc ch cb d).txPowerPendValid = s.txPowerPendValid ∧
    (s.armTc ch cb d).desc = s.desc.set ch.slot ⟨.idle, .absTime, d, none, .never, halfParam cb, d⟩ ∧
    (s.armTc ch cb d).txAckReq = s.txAckReq ∧ (s.armTc ch cb d).txSeq = s.txSeq ∧
    (s.armTc ch cb d).txDur = s.txDur ∧ (s.armTc ch cb d).ackQueued = s.ackQueued ∧
    (s.armTc ch cb d).ackWait = s.ackWait ∧ (s.armTc ch cb d).ackWaitSeq = s.ackWaitSeq ∧
    (s.armTc ch cb d).bo = s.bo ∧ (s.armTc ch cb d).retryEvt = s.retryEvt ∧
    (s.armTc ch cb d).retryArgs = s.retryArgs ∧ (s.armTc ch cb d).tc = s.tc.set ch ⟨true, cb, d⟩ ∧
    (s.armTc ch cb d).rxState = s.rxState ∧ (s.armTc ch cb d).frameHandle = s.frameHandle ∧
    (s.armTc ch cb d).curEntry = s.curEntry ∧ (s.armTc ch cb d).pf = s.pf ∧
    (s.armTc ch cb d).ring = s.ring ∧ (s.armTc ch cb d).ringData = s.ringData ∧
    (s.armTc ch cb d).radioLast = s.radioLast ∧
    (s.armTc ch cb d).rdIdx = s.rdIdx ∧ (s.armTc ch cb d).fPan = s.fPan ∧
    (s.armTc ch cb d).fShort = s.fShort ∧ (s.armTc ch cb d).fExt = s.fExt ∧
    (s.armTc ch cb d).fAllow = s.fAllow ∧ (s.armTc ch cb d).fPromisc = s.fPromisc ∧
    (s.armTc ch cb d).fEnhAck = s.fEnhAck ∧ (s.armTc ch cb d).fAckFP = s.fAckFP ∧
    (s.armTc ch cb d).panCoord = s.panCoord ∧ (s.armTc ch cb d).beaconEn = s.beaconEn ∧
    (s.armTc ch cb d).dcBeacon = s.dcBeacon ∧ (s.armTc ch cb d).dcBucket = s.dcBucket ∧
    (s.armTc ch cb d).dcTotal = s.dcTotal ∧ (s.armTc ch cb d).dcCur = s.dcCur ∧
    (s.armTc ch cb d).dcMode = s.dcMode ∧ (s.armTc ch cb d).dcRecorded = s.dcRecorded ∧
    (s.armTc ch cb d).diag = s.diag ∧ (s.armTc ch cb d).out = s.out ++ [.armTc ch cb d] ∧
    (s.armTc ch cb d).sched = s.sched ∧ (s.armTc ch cb d).draws = s.draws ∧
    (s.armTc ch cb d).busData = s.busData := by
  and_intros <;> rfl

/-- raise Fault(r) changes the fault set alone (60_exceptions.md R493). -/
@[simp] theorem State.raiseFault_fields (s : State) (r : FaultReason) :
    (s.raiseFault r).cfg = s.cfg ∧ (s.raiseFault r).init = s.init ∧ (s.raiseFault r).fatal = s.fatal ∧
    (s.raiseFault r).ringAllocated = s.ringAllocated ∧ (s.raiseFault r).arg0 = s.arg0 ∧
    (s.raiseFault r).arg1 = s.arg1 ∧ (s.raiseFault r).res = s.res ∧
    (s.raiseFault r).cntTotal = s.cntTotal ∧ (s.raiseFault r).cntRx = s.cntRx ∧
    (s.raiseFault r).inflight = s.inflight ∧ (s.raiseFault r).progChannel = s.progChannel ∧
    (s.raiseFault r).progValid = s.progValid ∧ (s.raiseFault r).txPowerCur = s.txPowerCur ∧
    (s.raiseFault r).txPowerCurValid = s.txPowerCurValid ∧ (s.raiseFault r).txPowerPend = s.txPowerPend ∧
    (s.raiseFault r).txPowerPendValid = s.txPowerPendValid ∧ (s.raiseFault r).desc = s.desc ∧
    (s.raiseFault r).txAckReq = s.txAckReq ∧ (s.raiseFault r).txSeq = s.txSeq ∧
    (s.raiseFault r).txDur = s.txDur ∧ (s.raiseFault r).ackQueued = s.ackQueued ∧
    (s.raiseFault r).ackWait = s.ackWait ∧ (s.raiseFault r).ackWaitSeq = s.ackWaitSeq ∧
    (s.raiseFault r).bo = s.bo ∧ (s.raiseFault r).retryEvt = s.retryEvt ∧
    (s.raiseFault r).retryArgs = s.retryArgs ∧ (s.raiseFault r).tc = s.tc ∧
    (s.raiseFault r).rxState = s.rxState ∧ (s.raiseFault r).frameHandle = s.frameHandle ∧
    (s.raiseFault r).curEntry = s.curEntry ∧ (s.raiseFault r).pf = s.pf ∧ (s.raiseFault r).ring = s.ring ∧
    (s.raiseFault r).ringData = s.ringData ∧
    (s.raiseFault r).radioLast = s.radioLast ∧ (s.raiseFault r).rdIdx = s.rdIdx ∧
    (s.raiseFault r).fPan = s.fPan ∧ (s.raiseFault r).fShort = s.fShort ∧ (s.raiseFault r).fExt = s.fExt ∧
    (s.raiseFault r).fAllow = s.fAllow ∧ (s.raiseFault r).fPromisc = s.fPromisc ∧
    (s.raiseFault r).fEnhAck = s.fEnhAck ∧ (s.raiseFault r).fAckFP = s.fAckFP ∧
    (s.raiseFault r).panCoord = s.panCoord ∧ (s.raiseFault r).beaconEn = s.beaconEn ∧
    (s.raiseFault r).dcBeacon = s.dcBeacon ∧ (s.raiseFault r).dcBucket = s.dcBucket ∧
    (s.raiseFault r).dcTotal = s.dcTotal ∧ (s.raiseFault r).dcCur = s.dcCur ∧
    (s.raiseFault r).dcMode = s.dcMode ∧ (s.raiseFault r).dcRecorded = s.dcRecorded ∧
    (s.raiseFault r).diag = s.diag ∧ (s.raiseFault r).out = s.out ∧ (s.raiseFault r).sched = s.sched ∧
    (s.raiseFault r).draws = s.draws ∧ (s.raiseFault r).busData = s.busData := by
  unfold State.raiseFault
  split <;> and_intros <;> rfl

/-! ## Slots, classes and channels: reading after writing -/

@[simp] theorem PerSlot.get_set {α : Type} (m : PerSlot α) (x y : Slot) (v : α) :
    (m.set x v).get y = if y = x then v else m.get y := by cases x <;> cases y <;> rfl

@[simp] theorem PerClass.get_set {α : Type} (m : PerClass α) (x y : OpClass) (v : α) :
    (m.set x v).get y = if y = x then v else m.get y := by cases x <;> cases y <;> rfl

@[simp] theorem PerChan.get_set {α : Type} (m : PerChan α) (x y : TcChan) (v : α) :
    (m.set x v).get y = if y = x then v else m.get y := by cases x <;> cases y <;> rfl

@[simp] theorem PerSlot.get_all {α : Type} (v : α) (x : Slot) : (PerSlot.all v).get x = v := by
  cases x <;> rfl

@[simp] theorem PerClass.get_all {α : Type} (v : α) (x : OpClass) : (PerClass.all v).get x = v := by
  cases x <;> rfl

@[simp] theorem PerChan.get_all {α : Type} (v : α) (x : TcChan) : (PerChan.all v).get x = v := by
  cases x <;> rfl

theorem PerSlot.get_setAll (m : PerSlot Bool) (v : Bool) (l : List Slot) (y : Slot) :
    (m.setAll v l).get y = if y ∈ l then v else m.get y := by
  induction l generalizing m with
  | nil => simp [PerSlot.setAll]
  | cons x l ih =>
    simp only [PerSlot.setAll, ih, PerSlot.get_set, List.mem_cons]
    by_cases h : y ∈ l <;> by_cases h' : y = x <;> simp [h, h']

theorem PerSlot.ext_get {α : Type} {m n : PerSlot α} (h : ∀ x, m.get x = n.get x) : m = n := by
  cases m; cases n
  have a := h .setup; have b := h .fsRx; have c := h .rx; have d := h .fsTx; have e := h .cca
  have f := h .tx; have g := h .ack; have i := h .noop; have j := h .tcA; have k := h .tcB
  simp only [PerSlot.get] at a b c d e f g i j k
  simp [a, b, c, d, e, f, g, i, j, k]

end Sys2Proof.Machine
end

