-- ==== Sys2Proof/Laws/Memory.lean ====
section
/-!
SUPPORT. The laws of the RING memory: a read after a write, and that every memory operation keeps the
canonical form (20_memory.md R100, R113).
-/

namespace Sys2Proof.Machine

theorem Memory.wfFrom_mono {lo lo' : Nat} (h : lo' ≤ lo) :
    ∀ {m : Memory}, Memory.wfFrom lo m = true → Memory.wfFrom lo' m = true
  | [], _ => rfl
  | (k, v) :: r, hm => by
    simp only [Memory.wfFrom, Bool.and_eq_true, decide_eq_true_eq] at hm ⊢
    exact ⟨⟨by omega, hm.1.2⟩, hm.2⟩

theorem Memory.wfFrom_write {lo a : Nat} (b : Byte) (ha : lo ≤ a) :
    ∀ {m : Memory}, Memory.wfFrom lo m = true → Memory.wfFrom lo (m.write a b) = true
  | [], _ => by
    unfold Memory.write
    split <;> simp_all [Memory.wfFrom]
  | (k, v) :: r, hm => by
    simp only [Memory.wfFrom, Bool.and_eq_true, decide_eq_true_eq] at hm
    obtain ⟨⟨h1, h2⟩, h3⟩ := hm
    unfold Memory.write
    split
    · split
      · simp [Memory.wfFrom, h1, h2, h3]
      · rename_i hlt hb
        simp [Memory.wfFrom, ha, hb, h2, h3, Nat.succ_le_of_lt hlt]
    · split
      · rename_i heq
        split
        · exact Memory.wfFrom_mono (by omega) h3
        · rename_i hb
          simp [Memory.wfFrom, h1, hb, heq, h3]
      · have := Memory.wfFrom_write b (lo := k + 1) (a := a) (by omega) h3
        simp [Memory.wfFrom, h1, h2, this]

/-- A byte write keeps the canonical form. -/
theorem Memory.wf_write {m : Memory} (a : Nat) (b : Byte) (h : m.wf = true) : (m.write a b).wf = true :=
  Memory.wfFrom_write b (Nat.zero_le a) h

/-- A write of several bytes keeps the canonical form. -/
theorem Memory.wf_writeList (bs : List Byte) :
    ∀ {m : Memory} (a : Nat), m.wf = true → (m.writeList a bs).wf = true := by
  induction bs with
  | nil => intro m a h; exact h
  | cons b bs ih => intro m a h; exact ih (a + 1) (Memory.wf_write a b h)

/-- Nothing is listed below the canonical form's bound. -/
theorem Memory.read_of_lt {lo a : Nat} (ha : a < lo) :
    ∀ {m : Memory}, Memory.wfFrom lo m = true → m.read a = Memory.unlisted
  | [], _ => rfl
  | (k, v) :: r, hm => by
    simp only [Memory.wfFrom, Bool.and_eq_true, decide_eq_true_eq] at hm
    have hk : k ≠ a := by omega
    simp only [Memory.read, hk, if_false]
    exact Memory.read_of_lt (lo := k + 1) (by omega) hm.2

theorem Memory.read_write_from {lo a : Nat} (b : Byte) (c : Nat) :
    ∀ {m : Memory}, Memory.wfFrom lo m = true →
      (m.write a b).read c = if c = a then b else m.read c
  | [], _ => by
    unfold Memory.write
    split
    · rename_i hb
      by_cases hc : c = a <;> simp [Memory.read, hb, hc]
    · by_cases hc : c = a
      · simp [Memory.read, hc]
      · simp [Memory.read, hc, Ne.symm hc]
  | (k, v) :: r, hm => by
    have hm' := hm
    simp only [Memory.wfFrom, Bool.and_eq_true, decide_eq_true_eq] at hm
    obtain ⟨⟨h1, h2⟩, h3⟩ := hm
    unfold Memory.write
    split
    · rename_i hlt
      have hr : Memory.read r a = Memory.unlisted := Memory.read_of_lt (lo := k + 1) (by omega) h3
      split
      · rename_i hb
        by_cases hc : c = a
        · subst hc
          have hk : k ≠ c := by omega
          simp [Memory.read, hk, hb, hr]
        · simp [hc]
      · by_cases hc : c = a
        · simp [Memory.read, hc]
        · simp [Memory.read, hc, Ne.symm hc]
    · split
      · rename_i heq
        have hr : Memory.read r a = Memory.unlisted := Memory.read_of_lt (lo := k + 1) (by omega) h3
        split
        · rename_i hb
          by_cases hc : c = a
          · simp [hc, hb, hr]
          · have hk : k ≠ c := by omega
            simp [Memory.read, hc, hk]
        · by_cases hc : c = a
          · simp [Memory.read, hc]
          · have hk : k ≠ c := by omega
            simp [Memory.read, hc, hk, Ne.symm hc]
      · have ih := Memory.read_write_from (lo := k + 1) (a := a) b c h3
        by_cases hk : k = c
        · have hc : c ≠ a := by omega
          simp [Memory.read, hk, hc]
        · simp [Memory.read, hk, ih]

/-- A read after a byte write: the byte written at its address, every other address as before. -/
theorem Memory.read_write {m : Memory} (h : m.wf = true) (a c : Nat) (b : Byte) :
    (m.write a b).read c = if c = a then b else m.read c :=
  Memory.read_write_from (lo := 0) b c h

/-- A read after a write of several bytes. -/
theorem Memory.read_writeList (bs : List Byte) :
    ∀ {m : Memory} (a c : Nat), m.wf = true →
      (m.writeList a bs).read c =
        if a ≤ c ∧ c < a + bs.length then bs.getD (c - a) Memory.unlisted else m.read c := by
  induction bs with
  | nil =>
    intro m a c _
    have h : ¬ (a ≤ c ∧ c < a) := by omega
    simp [Memory.writeList, h]
  | cons b bs ih =>
    intro m a c h
    simp only [Memory.writeList, ih (a + 1) c (Memory.wf_write a b h), Memory.read_write h, List.length_cons]
    by_cases h1 : c = a
    · subst h1
      have : ¬ (c + 1 ≤ c) := by omega
      simp [this]
    · by_cases h2 : a + 1 ≤ c ∧ c < a + 1 + bs.length
      · have h3 : a ≤ c ∧ c < a + (bs.length + 1) := by omega
        have h4 : c - a = (c - (a + 1)) + 1 := by omega
        rw [if_pos h2, if_pos h3, h4, List.getD_cons_succ]
      · have h3 : ¬ (a ≤ c ∧ c < a + (bs.length + 1)) := by omega
        rw [if_neg h2, if_neg h3, if_neg h1]

/-- The memory at power-on is in canonical form. -/
theorem State.powerOn_ringData_wf (c : Config) : (State.powerOn c).ringData.wf = true := rfl

/-- Reading n bytes gives n bytes. -/
@[simp] theorem State.length_ringBytes (s : State) (k : BitVec 4) (n : Nat) :
    ∀ off, (s.ringBytes k off n).length = n := by
  induction n with
  | zero => intro off; rfl
  | succ n ih => intro off; simp [State.ringBytes, ih]

/-- Overwriting part of a buffer keeps its length. -/
@[simp] theorem length_spliceAt {α : Type} (l new : List α) (off : Nat) :
    (spliceAt l off new).length = l.length := by
  simp only [spliceAt, List.length_take, List.length_append, List.length_drop]
  omega

end Sys2Proof.Machine
end

