-- ==== Sys2Proof/Laws/Ops.lean ====
section
/-!
SUPPORT. What each shared operation may change: for each, every field it leaves alone, as rewrite rules,
and the equations that give its result without a destructured pair.
-/

namespace Sys2Proof.Machine

/-! ## Draws -/

@[simp] theorem State.drawRingAllocOk_fields (s : State) :
    (s.drawRingAllocOk.2).cfg = s.cfg ∧ (s.drawRingAllocOk.2).init = s.init ∧
    (s.drawRingAllocOk.2).fatal = s.fatal ∧ (s.drawRingAllocOk.2).ringAllocated = s.ringAllocated ∧
    (s.drawRingAllocOk.2).faults = s.faults ∧ (s.drawRingAllocOk.2).arg0 = s.arg0 ∧
    (s.drawRingAllocOk.2).arg1 = s.arg1 ∧ (s.drawRingAllocOk.2).res = s.res ∧
    (s.drawRingAllocOk.2).cntTotal = s.cntTotal ∧ (s.drawRingAllocOk.2).cntRx = s.cntRx ∧
    (s.drawRingAllocOk.2).inflight = s.inflight ∧ (s.drawRingAllocOk.2).progChannel = s.progChannel ∧
    (s.drawRingAllocOk.2).progValid = s.progValid ∧ (s.drawRingAllocOk.2).txPowerCur = s.txPowerCur ∧
    (s.drawRingAllocOk.2).txPowerCurValid = s.txPowerCurValid ∧
    (s.drawRingAllocOk.2).txPowerPend = s.txPowerPend ∧
    (s.drawRingAllocOk.2).txPowerPendValid = s.txPowerPendValid ∧ (s.drawRingAllocOk.2).desc = s.desc ∧
    (s.drawRingAllocOk.2).txAckReq = s.txAckReq ∧ (s.drawRingAllocOk.2).txSeq = s.txSeq ∧
    (s.drawRingAllocOk.2).txDur = s.txDur ∧ (s.drawRingAllocOk.2).ackQueued = s.ackQueued ∧
    (s.drawRingAllocOk.2).ackWait = s.ackWait ∧ (s.drawRingAllocOk.2).ackWaitSeq = s.ackWaitSeq ∧
    (s.drawRingAllocOk.2).bo = s.bo ∧ (s.drawRingAllocOk.2).retryEvt = s.retryEvt ∧
    (s.drawRingAllocOk.2).retryArgs = s.retryArgs ∧ (s.drawRingAllocOk.2).tc = s.tc ∧
    (s.drawRingAllocOk.2).rxState = s.rxState ∧ (s.drawRingAllocOk.2).frameHandle = s.frameHandle ∧
    (s.drawRingAllocOk.2).curEntry = s.curEntry ∧ (s.drawRingAllocOk.2).pf = s.pf ∧
    (s.drawRingAllocOk.2).ring = s.ring ∧ (s.drawRingAllocOk.2).ringData = s.ringData ∧
    (s.drawRingAllocOk.2).radioLast = s.radioLast ∧
    (s.drawRingAllocOk.2).rdIdx = s.rdIdx ∧ (s.drawRingAllocOk.2).fPan = s.fPan ∧
    (s.drawRingAllocOk.2).fShort = s.fShort ∧ (s.drawRingAllocOk.2).fExt = s.fExt ∧
    (s.drawRingAllocOk.2).fAllow = s.fAllow ∧ (s.drawRingAllocOk.2).fPromisc = s.fPromisc ∧
    (s.drawRingAllocOk.2).fEnhAck = s.fEnhAck ∧ (s.drawRingAllocOk.2).fAckFP = s.fAckFP ∧
    (s.drawRingAllocOk.2).panCoord = s.panCoord ∧ (s.drawRingAllocOk.2).beaconEn = s.beaconEn ∧
    (s.drawRingAllocOk.2).dcBeacon = s.dcBeacon ∧ (s.drawRingAllocOk.2).dcBucket = s.dcBucket ∧
    (s.drawRingAllocOk.2).dcTotal = s.dcTotal ∧ (s.drawRingAllocOk.2).dcCur = s.dcCur ∧
    (s.drawRingAllocOk.2).dcMode = s.dcMode ∧ (s.drawRingAllocOk.2).dcRecorded = s.dcRecorded ∧
    (s.drawRingAllocOk.2).diag = s.diag ∧ (s.drawRingAllocOk.2).out = s.out ∧
    (s.drawRingAllocOk.2).sched = s.sched ∧ (s.drawRingAllocOk.2).busData = s.busData := by
  unfold State.drawRingAllocOk
  split <;> simp

@[simp] theorem State.drawAccept_fields (s : State) :
    (s.drawAccept.2).cfg = s.cfg ∧ (s.drawAccept.2).init = s.init ∧ (s.drawAccept.2).fatal = s.fatal ∧
    (s.drawAccept.2).ringAllocated = s.ringAllocated ∧ (s.drawAccept.2).faults = s.faults ∧
    (s.drawAccept.2).arg0 = s.arg0 ∧ (s.drawAccept.2).arg1 = s.arg1 ∧ (s.drawAccept.2).res = s.res ∧
    (s.drawAccept.2).cntTotal = s.cntTotal ∧ (s.drawAccept.2).cntRx = s.cntRx ∧
    (s.drawAccept.2).inflight = s.inflight ∧ (s.drawAccept.2).progChannel = s.progChannel ∧
    (s.drawAccept.2).progValid = s.progValid ∧ (s.drawAccept.2).txPowerCur = s.txPowerCur ∧
    (s.drawAccept.2).txPowerCurValid = s.txPowerCurValid ∧ (s.drawAccept.2).txPowerPend = s.txPowerPend ∧
    (s.drawAccept.2).txPowerPendValid = s.txPowerPendValid ∧ (s.drawAccept.2).desc = s.desc ∧
    (s.drawAccept.2).txAckReq = s.txAckReq ∧ (s.drawAccept.2).txSeq = s.txSeq ∧
    (s.drawAccept.2).txDur = s.txDur ∧ (s.drawAccept.2).ackQueued = s.ackQueued ∧
    (s.drawAccept.2).ackWait = s.ackWait ∧ (s.drawAccept.2).ackWaitSeq = s.ackWaitSeq ∧
    (s.drawAccept.2).bo = s.bo ∧ (s.drawAccept.2).retryEvt = s.retryEvt ∧
    (s.drawAccept.2).retryArgs = s.retryArgs ∧ (s.drawAccept.2).tc = s.tc ∧
    (s.drawAccept.2).rxState = s.rxState ∧ (s.drawAccept.2).frameHandle = s.frameHandle ∧
    (s.drawAccept.2).curEntry = s.curEntry ∧ (s.drawAccept.2).pf = s.pf ∧ (s.drawAccept.2).ring = s.ring ∧
    (s.drawAccept.2).ringData = s.ringData ∧
    (s.drawAccept.2).radioLast = s.radioLast ∧ (s.drawAccept.2).rdIdx = s.rdIdx ∧
    (s.drawAccept.2).fPan = s.fPan ∧ (s.drawAccept.2).fShort = s.fShort ∧ (s.drawAccept.2).fExt = s.fExt ∧
    (s.drawAccept.2).fAllow = s.fAllow ∧ (s.drawAccept.2).fPromisc = s.fPromisc ∧
    (s.drawAccept.2).fEnhAck = s.fEnhAck ∧ (s.drawAccept.2).fAckFP = s.fAckFP ∧
    (s.drawAccept.2).panCoord = s.panCoord ∧ (s.drawAccept.2).beaconEn = s.beaconEn ∧
    (s.drawAccept.2).dcBeacon = s.dcBeacon ∧ (s.drawAccept.2).dcBucket = s.dcBucket ∧
    (s.drawAccept.2).dcTotal = s.dcTotal ∧ (s.drawAccept.2).dcCur = s.dcCur ∧
    (s.drawAccept.2).dcMode = s.dcMode ∧ (s.drawAccept.2).dcRecorded = s.dcRecorded ∧
    (s.drawAccept.2).diag = s.diag ∧ (s.drawAccept.2).out = s.out ∧ (s.drawAccept.2).sched = s.sched ∧
    (s.drawAccept.2).busData = s.busData := by
  unfold State.drawAccept
  split <;> simp

@[simp] theorem State.drawAllocOk_fields (s : State) :
    (s.drawAllocOk.2).cfg = s.cfg ∧ (s.drawAllocOk.2).init = s.init ∧ (s.drawAllocOk.2).fatal = s.fatal ∧
    (s.drawAllocOk.2).ringAllocated = s.ringAllocated ∧ (s.drawAllocOk.2).faults = s.faults ∧
    (s.drawAllocOk.2).arg0 = s.arg0 ∧ (s.drawAllocOk.2).arg1 = s.arg1 ∧ (s.drawAllocOk.2).res = s.res ∧
    (s.drawAllocOk.2).cntTotal = s.cntTotal ∧ (s.drawAllocOk.2).cntRx = s.cntRx ∧
    (s.drawAllocOk.2).inflight = s.inflight ∧ (s.drawAllocOk.2).progChannel = s.progChannel ∧
    (s.drawAllocOk.2).progValid = s.progValid ∧ (s.drawAllocOk.2).txPowerCur = s.txPowerCur ∧
    (s.drawAllocOk.2).txPowerCurValid = s.txPowerCurValid ∧ (s.drawAllocOk.2).txPowerPend = s.txPowerPend ∧
    (s.drawAllocOk.2).txPowerPendValid = s.txPowerPendValid ∧ (s.drawAllocOk.2).desc = s.desc ∧
    (s.drawAllocOk.2).txAckReq = s.txAckReq ∧ (s.drawAllocOk.2).txSeq = s.txSeq ∧
    (s.drawAllocOk.2).txDur = s.txDur ∧ (s.drawAllocOk.2).ackQueued = s.ackQueued ∧
    (s.drawAllocOk.2).ackWait = s.ackWait ∧ (s.drawAllocOk.2).ackWaitSeq = s.ackWaitSeq ∧
    (s.drawAllocOk.2).bo = s.bo ∧ (s.drawAllocOk.2).retryEvt = s.retryEvt ∧
    (s.drawAllocOk.2).retryArgs = s.retryArgs ∧ (s.drawAllocOk.2).tc = s.tc ∧
    (s.drawAllocOk.2).rxState = s.rxState ∧ (s.drawAllocOk.2).frameHandle = s.frameHandle ∧
    (s.drawAllocOk.2).curEntry = s.curEntry ∧ (s.drawAllocOk.2).pf = s.pf ∧
    (s.drawAllocOk.2).ring = s.ring ∧ (s.drawAllocOk.2).ringData = s.ringData ∧
    (s.drawAllocOk.2).radioLast = s.radioLast ∧
    (s.drawAllocOk.2).rdIdx = s.rdIdx ∧ (s.drawAllocOk.2).fPan = s.fPan ∧
    (s.drawAllocOk.2).fShort = s.fShort ∧ (s.drawAllocOk.2).fExt = s.fExt ∧
    (s.drawAllocOk.2).fAllow = s.fAllow ∧ (s.drawAllocOk.2).fPromisc = s.fPromisc ∧
    (s.drawAllocOk.2).fEnhAck = s.fEnhAck ∧ (s.drawAllocOk.2).fAckFP = s.fAckFP ∧
    (s.drawAllocOk.2).panCoord = s.panCoord ∧ (s.drawAllocOk.2).beaconEn = s.beaconEn ∧
    (s.drawAllocOk.2).dcBeacon = s.dcBeacon ∧ (s.drawAllocOk.2).dcBucket = s.dcBucket ∧
    (s.drawAllocOk.2).dcTotal = s.dcTotal ∧ (s.drawAllocOk.2).dcCur = s.dcCur ∧
    (s.drawAllocOk.2).dcMode = s.dcMode ∧ (s.drawAllocOk.2).dcRecorded = s.dcRecorded ∧
    (s.drawAllocOk.2).diag = s.diag ∧ (s.drawAllocOk.2).out = s.out ∧ (s.drawAllocOk.2).sched = s.sched ∧
    (s.drawAllocOk.2).busData = s.busData := by
  unfold State.drawAllocOk
  split <;> simp

@[simp] theorem State.drawRatNow_fields (s : State) :
    (s.drawRatNow.2).cfg = s.cfg ∧ (s.drawRatNow.2).init = s.init ∧ (s.drawRatNow.2).fatal = s.fatal ∧
    (s.drawRatNow.2).ringAllocated = s.ringAllocated ∧ (s.drawRatNow.2).faults = s.faults ∧
    (s.drawRatNow.2).arg0 = s.arg0 ∧ (s.drawRatNow.2).arg1 = s.arg1 ∧ (s.drawRatNow.2).res = s.res ∧
    (s.drawRatNow.2).cntTotal = s.cntTotal ∧ (s.drawRatNow.2).cntRx = s.cntRx ∧
    (s.drawRatNow.2).inflight = s.inflight ∧ (s.drawRatNow.2).progChannel = s.progChannel ∧
    (s.drawRatNow.2).progValid = s.progValid ∧ (s.drawRatNow.2).txPowerCur = s.txPowerCur ∧
    (s.drawRatNow.2).txPowerCurValid = s.txPowerCurValid ∧ (s.drawRatNow.2).txPowerPend = s.txPowerPend ∧
    (s.drawRatNow.2).txPowerPendValid = s.txPowerPendValid ∧ (s.drawRatNow.2).desc = s.desc ∧
    (s.drawRatNow.2).txAckReq = s.txAckReq ∧ (s.drawRatNow.2).txSeq = s.txSeq ∧
    (s.drawRatNow.2).txDur = s.txDur ∧ (s.drawRatNow.2).ackQueued = s.ackQueued ∧
    (s.drawRatNow.2).ackWait = s.ackWait ∧ (s.drawRatNow.2).ackWaitSeq = s.ackWaitSeq ∧
    (s.drawRatNow.2).bo = s.bo ∧ (s.drawRatNow.2).retryEvt = s.retryEvt ∧
    (s.drawRatNow.2).retryArgs = s.retryArgs ∧ (s.drawRatNow.2).tc = s.tc ∧
    (s.drawRatNow.2).rxState = s.rxState ∧ (s.drawRatNow.2).frameHandle = s.frameHandle ∧
    (s.drawRatNow.2).curEntry = s.curEntry ∧ (s.drawRatNow.2).pf = s.pf ∧ (s.drawRatNow.2).ring = s.ring ∧
    (s.drawRatNow.2).ringData = s.ringData ∧
    (s.drawRatNow.2).radioLast = s.radioLast ∧ (s.drawRatNow.2).rdIdx = s.rdIdx ∧
    (s.drawRatNow.2).fPan = s.fPan ∧ (s.drawRatNow.2).fShort = s.fShort ∧ (s.drawRatNow.2).fExt = s.fExt ∧
    (s.drawRatNow.2).fAllow = s.fAllow ∧ (s.drawRatNow.2).fPromisc = s.fPromisc ∧
    (s.drawRatNow.2).fEnhAck = s.fEnhAck ∧ (s.drawRatNow.2).fAckFP = s.fAckFP ∧
    (s.drawRatNow.2).panCoord = s.panCoord ∧ (s.drawRatNow.2).beaconEn = s.beaconEn ∧
    (s.drawRatNow.2).dcBeacon = s.dcBeacon ∧ (s.drawRatNow.2).dcBucket = s.dcBucket ∧
    (s.drawRatNow.2).dcTotal = s.dcTotal ∧ (s.drawRatNow.2).dcCur = s.dcCur ∧
    (s.drawRatNow.2).dcMode = s.dcMode ∧ (s.drawRatNow.2).dcRecorded = s.dcRecorded ∧
    (s.drawRatNow.2).diag = s.diag ∧ (s.drawRatNow.2).out = s.out ∧ (s.drawRatNow.2).sched = s.sched ∧
    (s.drawRatNow.2).busData = s.busData := by
  unfold State.drawRatNow
  split <;> simp

@[simp] theorem State.drawAckStart_fields (s : State) :
    (s.drawAckStart.2).cfg = s.cfg ∧ (s.drawAckStart.2).init = s.init ∧
    (s.drawAckStart.2).fatal = s.fatal ∧ (s.drawAckStart.2).ringAllocated = s.ringAllocated ∧
    (s.drawAckStart.2).faults = s.faults ∧ (s.drawAckStart.2).arg0 = s.arg0 ∧
    (s.drawAckStart.2).arg1 = s.arg1 ∧ (s.drawAckStart.2).res = s.res ∧
    (s.drawAckStart.2).cntTotal = s.cntTotal ∧ (s.drawAckStart.2).cntRx = s.cntRx ∧
    (s.drawAckStart.2).inflight = s.inflight ∧ (s.drawAckStart.2).progChannel = s.progChannel ∧
    (s.drawAckStart.2).progValid = s.progValid ∧ (s.drawAckStart.2).txPowerCur = s.txPowerCur ∧
    (s.drawAckStart.2).txPowerCurValid = s.txPowerCurValid ∧
    (s.drawAckStart.2).txPowerPend = s.txPowerPend ∧
    (s.drawAckStart.2).txPowerPendValid = s.txPowerPendValid ∧ (s.drawAckStart.2).desc = s.desc ∧
    (s.drawAckStart.2).txAckReq = s.txAckReq ∧ (s.drawAckStart.2).txSeq = s.txSeq ∧
    (s.drawAckStart.2).txDur = s.txDur ∧ (s.drawAckStart.2).ackQueued = s.ackQueued ∧
    (s.drawAckStart.2).ackWait = s.ackWait ∧ (s.drawAckStart.2).ackWaitSeq = s.ackWaitSeq ∧
    (s.drawAckStart.2).bo = s.bo ∧ (s.drawAckStart.2).retryEvt = s.retryEvt ∧
    (s.drawAckStart.2).retryArgs = s.retryArgs ∧ (s.drawAckStart.2).tc = s.tc ∧
    (s.drawAckStart.2).rxState = s.rxState ∧ (s.drawAckStart.2).frameHandle = s.frameHandle ∧
    (s.drawAckStart.2).curEntry = s.curEntry ∧ (s.drawAckStart.2).pf = s.pf ∧
    (s.drawAckStart.2).ring = s.ring ∧ (s.drawAckStart.2).ringData = s.ringData ∧
    (s.drawAckStart.2).radioLast = s.radioLast ∧
    (s.drawAckStart.2).rdIdx = s.rdIdx ∧ (s.drawAckStart.2).fPan = s.fPan ∧
    (s.drawAckStart.2).fShort = s.fShort ∧ (s.drawAckStart.2).fExt = s.fExt ∧
    (s.drawAckStart.2).fAllow = s.fAllow ∧ (s.drawAckStart.2).fPromisc = s.fPromisc ∧
    (s.drawAckStart.2).fEnhAck = s.fEnhAck ∧ (s.drawAckStart.2).fAckFP = s.fAckFP ∧
    (s.drawAckStart.2).panCoord = s.panCoord ∧ (s.drawAckStart.2).beaconEn = s.beaconEn ∧
    (s.drawAckStart.2).dcBeacon = s.dcBeacon ∧ (s.drawAckStart.2).dcBucket = s.dcBucket ∧
    (s.drawAckStart.2).dcTotal = s.dcTotal ∧ (s.drawAckStart.2).dcCur = s.dcCur ∧
    (s.drawAckStart.2).dcMode = s.dcMode ∧ (s.drawAckStart.2).dcRecorded = s.dcRecorded ∧
    (s.drawAckStart.2).diag = s.diag ∧ (s.drawAckStart.2).out = s.out ∧
    (s.drawAckStart.2).sched = s.sched ∧ (s.drawAckStart.2).busData = s.busData := by
  unfold State.drawAckStart
  split <;> simp

@[simp] theorem State.drawEnhAckIEs_fields (s : State) :
    (s.drawEnhAckIEs.2).cfg = s.cfg ∧ (s.drawEnhAckIEs.2).init = s.init ∧
    (s.drawEnhAckIEs.2).fatal = s.fatal ∧ (s.drawEnhAckIEs.2).ringAllocated = s.ringAllocated ∧
    (s.drawEnhAckIEs.2).faults = s.faults ∧ (s.drawEnhAckIEs.2).arg0 = s.arg0 ∧
    (s.drawEnhAckIEs.2).arg1 = s.arg1 ∧ (s.drawEnhAckIEs.2).res = s.res ∧
    (s.drawEnhAckIEs.2).cntTotal = s.cntTotal ∧ (s.drawEnhAckIEs.2).cntRx = s.cntRx ∧
    (s.drawEnhAckIEs.2).inflight = s.inflight ∧ (s.drawEnhAckIEs.2).progChannel = s.progChannel ∧
    (s.drawEnhAckIEs.2).progValid = s.progValid ∧ (s.drawEnhAckIEs.2).txPowerCur = s.txPowerCur ∧
    (s.drawEnhAckIEs.2).txPowerCurValid = s.txPowerCurValid ∧
    (s.drawEnhAckIEs.2).txPowerPend = s.txPowerPend ∧
    (s.drawEnhAckIEs.2).txPowerPendValid = s.txPowerPendValid ∧ (s.drawEnhAckIEs.2).desc = s.desc ∧
    (s.drawEnhAckIEs.2).txAckReq = s.txAckReq ∧ (s.drawEnhAckIEs.2).txSeq = s.txSeq ∧
    (s.drawEnhAckIEs.2).txDur = s.txDur ∧ (s.drawEnhAckIEs.2).ackQueued = s.ackQueued ∧
    (s.drawEnhAckIEs.2).ackWait = s.ackWait ∧ (s.drawEnhAckIEs.2).ackWaitSeq = s.ackWaitSeq ∧
    (s.drawEnhAckIEs.2).bo = s.bo ∧ (s.drawEnhAckIEs.2).retryEvt = s.retryEvt ∧
    (s.drawEnhAckIEs.2).retryArgs = s.retryArgs ∧ (s.drawEnhAckIEs.2).tc = s.tc ∧
    (s.drawEnhAckIEs.2).rxState = s.rxState ∧ (s.drawEnhAckIEs.2).frameHandle = s.frameHandle ∧
    (s.drawEnhAckIEs.2).curEntry = s.curEntry ∧ (s.drawEnhAckIEs.2).pf = s.pf ∧
    (s.drawEnhAckIEs.2).ring = s.ring ∧ (s.drawEnhAckIEs.2).ringData = s.ringData ∧
    (s.drawEnhAckIEs.2).radioLast = s.radioLast ∧
    (s.drawEnhAckIEs.2).rdIdx = s.rdIdx ∧ (s.drawEnhAckIEs.2).fPan = s.fPan ∧
    (s.drawEnhAckIEs.2).fShort = s.fShort ∧ (s.drawEnhAckIEs.2).fExt = s.fExt ∧
    (s.drawEnhAckIEs.2).fAllow = s.fAllow ∧ (s.drawEnhAckIEs.2).fPromisc = s.fPromisc ∧
    (s.drawEnhAckIEs.2).fEnhAck = s.fEnhAck ∧ (s.drawEnhAckIEs.2).fAckFP = s.fAckFP ∧
    (s.drawEnhAckIEs.2).panCoord = s.panCoord ∧ (s.drawEnhAckIEs.2).beaconEn = s.beaconEn ∧
    (s.drawEnhAckIEs.2).dcBeacon = s.dcBeacon ∧ (s.drawEnhAckIEs.2).dcBucket = s.dcBucket ∧
    (s.drawEnhAckIEs.2).dcTotal = s.dcTotal ∧ (s.drawEnhAckIEs.2).dcCur = s.dcCur ∧
    (s.drawEnhAckIEs.2).dcMode = s.dcMode ∧ (s.drawEnhAckIEs.2).dcRecorded = s.dcRecorded ∧
    (s.drawEnhAckIEs.2).diag = s.diag ∧ (s.drawEnhAckIEs.2).out = s.out ∧
    (s.drawEnhAckIEs.2).sched = s.sched ∧ (s.drawEnhAckIEs.2).busData = s.busData := by
  unfold State.drawEnhAckIEs
  split <;> simp

@[simp] theorem State.drawMembers_fields (s : State) :
    (s.drawMembers.2).cfg = s.cfg ∧ (s.drawMembers.2).init = s.init ∧ (s.drawMembers.2).fatal = s.fatal ∧
    (s.drawMembers.2).ringAllocated = s.ringAllocated ∧ (s.drawMembers.2).faults = s.faults ∧
    (s.drawMembers.2).arg0 = s.arg0 ∧ (s.drawMembers.2).arg1 = s.arg1 ∧ (s.drawMembers.2).res = s.res ∧
    (s.drawMembers.2).cntTotal = s.cntTotal ∧ (s.drawMembers.2).cntRx = s.cntRx ∧
    (s.drawMembers.2).inflight = s.inflight ∧ (s.drawMembers.2).progChannel = s.progChannel ∧
    (s.drawMembers.2).progValid = s.progValid ∧ (s.drawMembers.2).txPowerCur = s.txPowerCur ∧
    (s.drawMembers.2).txPowerCurValid = s.txPowerCurValid ∧ (s.drawMembers.2).txPowerPend = s.txPowerPend ∧
    (s.drawMembers.2).txPowerPendValid = s.txPowerPendValid ∧ (s.drawMembers.2).desc = s.desc ∧
    (s.drawMembers.2).txAckReq = s.txAckReq ∧ (s.drawMembers.2).txSeq = s.txSeq ∧
    (s.drawMembers.2).txDur = s.txDur ∧ (s.drawMembers.2).ackQueued = s.ackQueued ∧
    (s.drawMembers.2).ackWait = s.ackWait ∧ (s.drawMembers.2).ackWaitSeq = s.ackWaitSeq ∧
    (s.drawMembers.2).bo = s.bo ∧ (s.drawMembers.2).retryEvt = s.retryEvt ∧
    (s.drawMembers.2).retryArgs = s.retryArgs ∧ (s.drawMembers.2).tc = s.tc ∧
    (s.drawMembers.2).rxState = s.rxState ∧ (s.drawMembers.2).frameHandle = s.frameHandle ∧
    (s.drawMembers.2).curEntry = s.curEntry ∧ (s.drawMembers.2).pf = s.pf ∧
    (s.drawMembers.2).ring = s.ring ∧ (s.drawMembers.2).ringData = s.ringData ∧
    (s.drawMembers.2).radioLast = s.radioLast ∧
    (s.drawMembers.2).rdIdx = s.rdIdx ∧ (s.drawMembers.2).fPan = s.fPan ∧
    (s.drawMembers.2).fShort = s.fShort ∧ (s.drawMembers.2).fExt = s.fExt ∧
    (s.drawMembers.2).fAllow = s.fAllow ∧ (s.drawMembers.2).fPromisc = s.fPromisc ∧
    (s.drawMembers.2).fEnhAck = s.fEnhAck ∧ (s.drawMembers.2).fAckFP = s.fAckFP ∧
    (s.drawMembers.2).panCoord = s.panCoord ∧ (s.drawMembers.2).beaconEn = s.beaconEn ∧
    (s.drawMembers.2).dcBeacon = s.dcBeacon ∧ (s.drawMembers.2).dcBucket = s.dcBucket ∧
    (s.drawMembers.2).dcTotal = s.dcTotal ∧ (s.drawMembers.2).dcCur = s.dcCur ∧
    (s.drawMembers.2).dcMode = s.dcMode ∧ (s.drawMembers.2).dcRecorded = s.dcRecorded ∧
    (s.drawMembers.2).diag = s.diag ∧ (s.drawMembers.2).out = s.out ∧ (s.drawMembers.2).sched = s.sched ∧
    (s.drawMembers.2).busData = s.busData := by
  unfold State.drawMembers
  split <;> simp

@[simp] theorem State.drawStatusBits_fields (s : State) :
    (s.drawStatusBits.2).cfg = s.cfg ∧ (s.drawStatusBits.2).init = s.init ∧
    (s.drawStatusBits.2).fatal = s.fatal ∧ (s.drawStatusBits.2).ringAllocated = s.ringAllocated ∧
    (s.drawStatusBits.2).faults = s.faults ∧ (s.drawStatusBits.2).arg0 = s.arg0 ∧
    (s.drawStatusBits.2).arg1 = s.arg1 ∧ (s.drawStatusBits.2).res = s.res ∧
    (s.drawStatusBits.2).cntTotal = s.cntTotal ∧ (s.drawStatusBits.2).cntRx = s.cntRx ∧
    (s.drawStatusBits.2).inflight = s.inflight ∧ (s.drawStatusBits.2).progChannel = s.progChannel ∧
    (s.drawStatusBits.2).progValid = s.progValid ∧ (s.drawStatusBits.2).txPowerCur = s.txPowerCur ∧
    (s.drawStatusBits.2).txPowerCurValid = s.txPowerCurValid ∧
    (s.drawStatusBits.2).txPowerPend = s.txPowerPend ∧
    (s.drawStatusBits.2).txPowerPendValid = s.txPowerPendValid ∧ (s.drawStatusBits.2).desc = s.desc ∧
    (s.drawStatusBits.2).txAckReq = s.txAckReq ∧ (s.drawStatusBits.2).txSeq = s.txSeq ∧
    (s.drawStatusBits.2).txDur = s.txDur ∧ (s.drawStatusBits.2).ackQueued = s.ackQueued ∧
    (s.drawStatusBits.2).ackWait = s.ackWait ∧ (s.drawStatusBits.2).ackWaitSeq = s.ackWaitSeq ∧
    (s.drawStatusBits.2).bo = s.bo ∧ (s.drawStatusBits.2).retryEvt = s.retryEvt ∧
    (s.drawStatusBits.2).retryArgs = s.retryArgs ∧ (s.drawStatusBits.2).tc = s.tc ∧
    (s.drawStatusBits.2).rxState = s.rxState ∧ (s.drawStatusBits.2).frameHandle = s.frameHandle ∧
    (s.drawStatusBits.2).curEntry = s.curEntry ∧ (s.drawStatusBits.2).pf = s.pf ∧
    (s.drawStatusBits.2).ring = s.ring ∧ (s.drawStatusBits.2).ringData = s.ringData ∧
    (s.drawStatusBits.2).radioLast = s.radioLast ∧
    (s.drawStatusBits.2).rdIdx = s.rdIdx ∧ (s.drawStatusBits.2).fPan = s.fPan ∧
    (s.drawStatusBits.2).fShort = s.fShort ∧ (s.drawStatusBits.2).fExt = s.fExt ∧
    (s.drawStatusBits.2).fAllow = s.fAllow ∧ (s.drawStatusBits.2).fPromisc = s.fPromisc ∧
    (s.drawStatusBits.2).fEnhAck = s.fEnhAck ∧ (s.drawStatusBits.2).fAckFP = s.fAckFP ∧
    (s.drawStatusBits.2).panCoord = s.panCoord ∧ (s.drawStatusBits.2).beaconEn = s.beaconEn ∧
    (s.drawStatusBits.2).dcBeacon = s.dcBeacon ∧ (s.drawStatusBits.2).dcBucket = s.dcBucket ∧
    (s.drawStatusBits.2).dcTotal = s.dcTotal ∧ (s.drawStatusBits.2).dcCur = s.dcCur ∧
    (s.drawStatusBits.2).dcMode = s.dcMode ∧ (s.drawStatusBits.2).dcRecorded = s.dcRecorded ∧
    (s.drawStatusBits.2).diag = s.diag ∧ (s.drawStatusBits.2).out = s.out ∧
    (s.drawStatusBits.2).sched = s.sched ∧ (s.drawStatusBits.2).busData = s.busData := by
  unfold State.drawStatusBits
  split <;> simp

@[simp] theorem State.drawUnspecified_fields (s : State) :
    (s.drawUnspecified.2).cfg = s.cfg ∧ (s.drawUnspecified.2).init = s.init ∧
    (s.drawUnspecified.2).fatal = s.fatal ∧ (s.drawUnspecified.2).ringAllocated = s.ringAllocated ∧
    (s.drawUnspecified.2).faults = s.faults ∧ (s.drawUnspecified.2).arg0 = s.arg0 ∧
    (s.drawUnspecified.2).arg1 = s.arg1 ∧ (s.drawUnspecified.2).res = s.res ∧
    (s.drawUnspecified.2).cntTotal = s.cntTotal ∧ (s.drawUnspecified.2).cntRx = s.cntRx ∧
    (s.drawUnspecified.2).inflight = s.inflight ∧ (s.drawUnspecified.2).progChannel = s.progChannel ∧
    (s.drawUnspecified.2).progValid = s.progValid ∧ (s.drawUnspecified.2).txPowerCur = s.txPowerCur ∧
    (s.drawUnspecified.2).txPowerCurValid = s.txPowerCurValid ∧
    (s.drawUnspecified.2).txPowerPend = s.txPowerPend ∧
    (s.drawUnspecified.2).txPowerPendValid = s.txPowerPendValid ∧ (s.drawUnspecified.2).desc = s.desc ∧
    (s.drawUnspecified.2).txAckReq = s.txAckReq ∧ (s.drawUnspecified.2).txSeq = s.txSeq ∧
    (s.drawUnspecified.2).txDur = s.txDur ∧ (s.drawUnspecified.2).ackQueued = s.ackQueued ∧
    (s.drawUnspecified.2).ackWait = s.ackWait ∧ (s.drawUnspecified.2).ackWaitSeq = s.ackWaitSeq ∧
    (s.drawUnspecified.2).bo = s.bo ∧ (s.drawUnspecified.2).retryEvt = s.retryEvt ∧
    (s.drawUnspecified.2).retryArgs = s.retryArgs ∧ (s.drawUnspecified.2).tc = s.tc ∧
    (s.drawUnspecified.2).rxState = s.rxState ∧ (s.drawUnspecified.2).frameHandle = s.frameHandle ∧
    (s.drawUnspecified.2).curEntry = s.curEntry ∧ (s.drawUnspecified.2).pf = s.pf ∧
    (s.drawUnspecified.2).ring = s.ring ∧ (s.drawUnspecified.2).ringData = s.ringData ∧
    (s.drawUnspecified.2).radioLast = s.radioLast ∧
    (s.drawUnspecified.2).rdIdx = s.rdIdx ∧ (s.drawUnspecified.2).fPan = s.fPan ∧
    (s.drawUnspecified.2).fShort = s.fShort ∧ (s.drawUnspecified.2).fExt = s.fExt ∧
    (s.drawUnspecified.2).fAllow = s.fAllow ∧ (s.drawUnspecified.2).fPromisc = s.fPromisc ∧
    (s.drawUnspecified.2).fEnhAck = s.fEnhAck ∧ (s.drawUnspecified.2).fAckFP = s.fAckFP ∧
    (s.drawUnspecified.2).panCoord = s.panCoord ∧ (s.drawUnspecified.2).beaconEn = s.beaconEn ∧
    (s.drawUnspecified.2).dcBeacon = s.dcBeacon ∧ (s.drawUnspecified.2).dcBucket = s.dcBucket ∧
    (s.drawUnspecified.2).dcTotal = s.dcTotal ∧ (s.drawUnspecified.2).dcCur = s.dcCur ∧
    (s.drawUnspecified.2).dcMode = s.dcMode ∧ (s.drawUnspecified.2).dcRecorded = s.dcRecorded ∧
    (s.drawUnspecified.2).diag = s.diag ∧ (s.drawUnspecified.2).out = s.out ∧
    (s.drawUnspecified.2).sched = s.sched ∧ (s.drawUnspecified.2).busData = s.busData := by
  unfold State.drawUnspecified
  split <;> simp

/-! ## Guards -/

theorem State.guardCmd_ready {s : State} (hi : s.init = true) (hf : s.fatal = false) (body : State → State) :
    s.guardCmd body = body s := by simp [State.guardCmd, hi, hf]

theorem State.guardCmd_uninit {s : State} (hi : s.init = false) (body : State → State) :
    s.guardCmd body = s.raiseFault .uninit := by simp [State.guardCmd, hi]

theorem State.guardCmd_fatal {s : State} (hi : s.init = true) (hf : s.fatal = true) (body : State → State) :
    s.guardCmd body = s.result .fatal := by simp [State.guardCmd, hi, hf]

theorem State.guardEvt_ready {s : State} (hi : s.init = true) (hf : s.fatal = false) (body : State → State) :
    s.guardEvt body = body s := by simp [State.guardEvt, hi, hf]

theorem State.guardEvt_uninit {s : State} (hi : s.init = false) (body : State → State) :
    s.guardEvt body = s.raiseFault .uninit := by simp [State.guardEvt, hi]

theorem State.guardEvt_fatal {s : State} (hi : s.init = true) (hf : s.fatal = true) (body : State → State) :
    s.guardEvt body = s := by simp [State.guardEvt, hi, hf]

/-! ## Discarding a frame -/

/-- flushEntry(k) (41_rx_frame_fsm.md R302). -/
@[simp] theorem State.flushEntry_fields (s : State) (k : BitVec 4) :
    (s.flushEntry k).cfg = s.cfg ∧ (s.flushEntry k).init = s.init ∧ (s.flushEntry k).fatal = s.fatal ∧
    (s.flushEntry k).ringAllocated = s.ringAllocated ∧ (s.flushEntry k).faults = s.faults ∧
    (s.flushEntry k).arg0 = s.arg0 ∧ (s.flushEntry k).arg1 = s.arg1 ∧ (s.flushEntry k).res = s.res ∧
    (s.flushEntry k).cntTotal = s.cntTotal ∧ (s.flushEntry k).cntRx = s.cntRx ∧
    (s.flushEntry k).inflight = s.inflight ∧ (s.flushEntry k).progChannel = s.progChannel ∧
    (s.flushEntry k).progValid = s.progValid ∧ (s.flushEntry k).txPowerCur = s.txPowerCur ∧
    (s.flushEntry k).txPowerCurValid = s.txPowerCurValid ∧ (s.flushEntry k).txPowerPend = s.txPowerPend ∧
    (s.flushEntry k).txPowerPendValid = s.txPowerPendValid ∧ (s.flushEntry k).desc = s.desc ∧
    (s.flushEntry k).txAckReq = s.txAckReq ∧ (s.flushEntry k).txSeq = s.txSeq ∧
    (s.flushEntry k).txDur = s.txDur ∧ (s.flushEntry k).ackQueued = s.ackQueued ∧
    (s.flushEntry k).ackWait = s.ackWait ∧ (s.flushEntry k).ackWaitSeq = s.ackWaitSeq ∧
    (s.flushEntry k).bo = s.bo ∧ (s.flushEntry k).retryEvt = s.retryEvt ∧
    (s.flushEntry k).retryArgs = s.retryArgs ∧ (s.flushEntry k).tc = s.tc ∧
    (s.flushEntry k).rxState = s.rxState ∧ (s.flushEntry k).frameHandle = s.frameHandle ∧
    (s.flushEntry k).curEntry = s.curEntry ∧ (s.flushEntry k).pf = s.pf ∧
    (s.flushEntry k).ringData = s.ringData ∧
    (s.flushEntry k).radioLast = s.radioLast ∧ (s.flushEntry k).fPan = s.fPan ∧
    (s.flushEntry k).fShort = s.fShort ∧ (s.flushEntry k).fExt = s.fExt ∧
    (s.flushEntry k).fAllow = s.fAllow ∧ (s.flushEntry k).fPromisc = s.fPromisc ∧
    (s.flushEntry k).fEnhAck = s.fEnhAck ∧ (s.flushEntry k).fAckFP = s.fAckFP ∧
    (s.flushEntry k).panCoord = s.panCoord ∧ (s.flushEntry k).beaconEn = s.beaconEn ∧
    (s.flushEntry k).dcBeacon = s.dcBeacon ∧ (s.flushEntry k).dcBucket = s.dcBucket ∧
    (s.flushEntry k).dcTotal = s.dcTotal ∧ (s.flushEntry k).dcCur = s.dcCur ∧
    (s.flushEntry k).dcMode = s.dcMode ∧ (s.flushEntry k).dcRecorded = s.dcRecorded ∧
    (s.flushEntry k).diag = s.diag ∧ (s.flushEntry k).sched = s.sched ∧ (s.flushEntry k).draws = s.draws ∧
    (s.flushEntry k).busData = s.busData := by
  simp only [State.flushEntry]
  split <;> simp

@[simp] theorem State.flushEntry_ring (s : State) (k : BitVec 4) :
    (s.flushEntry k).ring = s.ring.set k.toNat ⟨.pending, 0⟩ := by
  simp only [State.flushEntry]
  split <;> simp

@[simp] theorem State.flushEntry_out (s : State) (k : BitVec 4) :
    (s.flushEntry k).out = s.out ++ [.flushEntry k] := by
  simp only [State.flushEntry]
  split <;> simp

theorem State.flushEntry_rdIdx (s : State) (k : BitVec 4) :
    (s.flushEntry k).rdIdx =
      if s.rdIdx = k then BitVec.ofNat 4 ((k.toNat + 1) % s.cfg.ringN) else s.rdIdx := by
  by_cases h : s.rdIdx = k <;> simp [State.flushEntry, h]

/-- cancelAck() (R304). -/
@[simp] theorem State.cancelAck_fields (s : State) :
    (s.cancelAck).cfg = s.cfg ∧ (s.cancelAck).init = s.init ∧ (s.cancelAck).fatal = s.fatal ∧
    (s.cancelAck).ringAllocated = s.ringAllocated ∧ (s.cancelAck).faults = s.faults ∧
    (s.cancelAck).arg0 = s.arg0 ∧ (s.cancelAck).arg1 = s.arg1 ∧ (s.cancelAck).res = s.res ∧
    (s.cancelAck).cntTotal = s.cntTotal ∧ (s.cancelAck).cntRx = s.cntRx ∧
    (s.cancelAck).inflight = s.inflight ∧ (s.cancelAck).progChannel = s.progChannel ∧
    (s.cancelAck).progValid = s.progValid ∧ (s.cancelAck).txPowerCur = s.txPowerCur ∧
    (s.cancelAck).txPowerCurValid = s.txPowerCurValid ∧ (s.cancelAck).txPowerPend = s.txPowerPend ∧
    (s.cancelAck).txPowerPendValid = s.txPowerPendValid ∧ (s.cancelAck).desc = s.desc ∧
    (s.cancelAck).txAckReq = s.txAckReq ∧ (s.cancelAck).txSeq = s.txSeq ∧ (s.cancelAck).txDur = s.txDur ∧
    (s.cancelAck).ackWait = s.ackWait ∧ (s.cancelAck).ackWaitSeq = s.ackWaitSeq ∧ (s.cancelAck).bo = s.bo ∧
    (s.cancelAck).retryEvt = s.retryEvt ∧ (s.cancelAck).retryArgs = s.retryArgs ∧ (s.cancelAck).tc = s.tc ∧
    (s.cancelAck).rxState = s.rxState ∧ (s.cancelAck).frameHandle = s.frameHandle ∧
    (s.cancelAck).curEntry = s.curEntry ∧ (s.cancelAck).ring = s.ring ∧
    (s.cancelAck).ringData = s.ringData ∧
    (s.cancelAck).radioLast = s.radioLast ∧ (s.cancelAck).rdIdx = s.rdIdx ∧ (s.cancelAck).fPan = s.fPan ∧
    (s.cancelAck).fShort = s.fShort ∧ (s.cancelAck).fExt = s.fExt ∧ (s.cancelAck).fAllow = s.fAllow ∧
    (s.cancelAck).fPromisc = s.fPromisc ∧ (s.cancelAck).fEnhAck = s.fEnhAck ∧
    (s.cancelAck).fAckFP = s.fAckFP ∧ (s.cancelAck).panCoord = s.panCoord ∧
    (s.cancelAck).beaconEn = s.beaconEn ∧ (s.cancelAck).dcBeacon = s.dcBeacon ∧
    (s.cancelAck).dcBucket = s.dcBucket ∧ (s.cancelAck).dcTotal = s.dcTotal ∧
    (s.cancelAck).dcCur = s.dcCur ∧ (s.cancelAck).dcMode = s.dcMode ∧
    (s.cancelAck).dcRecorded = s.dcRecorded ∧ (s.cancelAck).diag = s.diag ∧ (s.cancelAck).sched = s.sched ∧
    (s.cancelAck).draws = s.draws ∧ (s.cancelAck).busData = s.busData := by
  simp only [State.cancelAck]
  split <;> simp

@[simp] theorem State.cancelAck_pf (s : State) : s.cancelAck.pf = { s.pf with ackArmed := false } := by
  simp only [State.cancelAck]
  split <;> simp

@[simp] theorem State.cancelAck_ackQueued (s : State) :
    s.cancelAck.ackQueued = (s.ackQueued && !s.pf.ackArmed) := by
  simp only [State.cancelAck]
  split <;> simp_all
  cases h : s.pf.ackArmed <;> simp_all

theorem State.cancelAck_out (s : State) :
    s.cancelAck.out = s.out ++ (if s.pf.ackArmed && s.ackQueued then [.abort .ack] else []) := by
  simp only [State.cancelAck]
  split <;> simp_all

/-- discard(r) (R303). -/
@[simp] theorem State.discard_fields (s : State) (r : DiagReason) :
    (s.discard r).cfg = s.cfg ∧ (s.discard r).init = s.init ∧ (s.discard r).fatal = s.fatal ∧
    (s.discard r).ringAllocated = s.ringAllocated ∧ (s.discard r).faults = s.faults ∧
    (s.discard r).arg0 = s.arg0 ∧ (s.discard r).arg1 = s.arg1 ∧ (s.discard r).res = s.res ∧
    (s.discard r).cntTotal = s.cntTotal ∧ (s.discard r).cntRx = s.cntRx ∧
    (s.discard r).inflight = s.inflight ∧ (s.discard r).progChannel = s.progChannel ∧
    (s.discard r).progValid = s.progValid ∧ (s.discard r).txPowerCur = s.txPowerCur ∧
    (s.discard r).txPowerCurValid = s.txPowerCurValid ∧ (s.discard r).txPowerPend = s.txPowerPend ∧
    (s.discard r).txPowerPendValid = s.txPowerPendValid ∧ (s.discard r).desc = s.desc ∧
    (s.discard r).txAckReq = s.txAckReq ∧ (s.discard r).txSeq = s.txSeq ∧ (s.discard r).txDur = s.txDur ∧
    (s.discard r).ackWait = s.ackWait ∧ (s.discard r).ackWaitSeq = s.ackWaitSeq ∧ (s.discard r).bo = s.bo ∧
    (s.discard r).retryEvt = s.retryEvt ∧ (s.discard r).retryArgs = s.retryArgs ∧ (s.discard r).tc = s.tc ∧
    (s.discard r).frameHandle = s.frameHandle ∧ (s.discard r).curEntry = s.curEntry ∧
    (s.discard r).ringData = s.ringData ∧
    (s.discard r).radioLast = s.radioLast ∧ (s.discard r).fPan = s.fPan ∧ (s.discard r).fShort = s.fShort ∧
    (s.discard r).fExt = s.fExt ∧ (s.discard r).fAllow = s.fAllow ∧ (s.discard r).fPromisc = s.fPromisc ∧
    (s.discard r).fEnhAck = s.fEnhAck ∧ (s.discard r).fAckFP = s.fAckFP ∧
    (s.discard r).panCoord = s.panCoord ∧ (s.discard r).beaconEn = s.beaconEn ∧
    (s.discard r).dcBeacon = s.dcBeacon ∧ (s.discard r).dcBucket = s.dcBucket ∧
    (s.discard r).dcTotal = s.dcTotal ∧ (s.discard r).dcCur = s.dcCur ∧ (s.discard r).dcMode = s.dcMode ∧
    (s.discard r).dcRecorded = s.dcRecorded ∧ (s.discard r).sched = s.sched ∧
    (s.discard r).draws = s.draws ∧ (s.discard r).busData = s.busData := by
  simp [State.discard]

@[simp] theorem State.discard_rxState (s : State) (r : DiagReason) : (s.discard r).rxState = .halted := rfl

@[simp] theorem State.discard_pf (s : State) (r : DiagReason) :
    (s.discard r).pf = { s.pf with ackArmed := false, valid := false } := by simp [State.discard]

@[simp] theorem State.discard_ackQueued (s : State) (r : DiagReason) :
    (s.discard r).ackQueued = (s.ackQueued && !s.pf.ackArmed) := by simp [State.discard]

@[simp] theorem State.discard_ring (s : State) (r : DiagReason) :
    (s.discard r).ring = s.ring.set s.curEntry.toNat ⟨.pending, 0⟩ := by simp [State.discard]

theorem State.discard_out (s : State) (r : DiagReason) :
    (s.discard r).out =
      s.out ++ (if s.pf.ackArmed && s.ackQueued then [.abort .ack] else []) ++ [.flushEntry s.curEntry] := by
  simp [State.discard, State.cancelAck_out]

theorem State.discard_rdIdx (s : State) (r : DiagReason) :
    (s.discard r).rdIdx =
      if s.rdIdx = s.curEntry then BitVec.ofNat 4 ((s.curEntry.toNat + 1) % s.cfg.ringN) else s.rdIdx := by
  simp [State.discard, State.flushEntry_rdIdx]

@[simp] theorem State.discard_diag (s : State) (r : DiagReason) :
    (s.discard r).diag = s.diag.set r.index.val (saturate (s.diag.get r.index)) r.index.isLt := by
  simp [State.discard]

@[simp] theorem State.discardToIdle_fields (s : State) (r : DiagReason) :
    (s.discardToIdle r).cfg = s.cfg ∧ (s.discardToIdle r).init = s.init ∧
    (s.discardToIdle r).fatal = s.fatal ∧ (s.discardToIdle r).ringAllocated = s.ringAllocated ∧
    (s.discardToIdle r).faults = s.faults ∧ (s.discardToIdle r).arg0 = s.arg0 ∧
    (s.discardToIdle r).arg1 = s.arg1 ∧ (s.discardToIdle r).res = s.res ∧
    (s.discardToIdle r).cntTotal = s.cntTotal ∧ (s.discardToIdle r).cntRx = s.cntRx ∧
    (s.discardToIdle r).inflight = s.inflight ∧ (s.discardToIdle r).progChannel = s.progChannel ∧
    (s.discardToIdle r).progValid = s.progValid ∧ (s.discardToIdle r).txPowerCur = s.txPowerCur ∧
    (s.discardToIdle r).txPowerCurValid = s.txPowerCurValid ∧
    (s.discardToIdle r).txPowerPend = s.txPowerPend ∧
    (s.discardToIdle r).txPowerPendValid = s.txPowerPendValid ∧ (s.discardToIdle r).desc = s.desc ∧
    (s.discardToIdle r).txAckReq = s.txAckReq ∧ (s.discardToIdle r).txSeq = s.txSeq ∧
    (s.discardToIdle r).txDur = s.txDur ∧ (s.discardToIdle r).ackWait = s.ackWait ∧
    (s.discardToIdle r).ackWaitSeq = s.ackWaitSeq ∧ (s.discardToIdle r).bo = s.bo ∧
    (s.discardToIdle r).retryEvt = s.retryEvt ∧ (s.discardToIdle r).retryArgs = s.retryArgs ∧
    (s.discardToIdle r).tc = s.tc ∧ (s.discardToIdle r).frameHandle = s.frameHandle ∧
    (s.discardToIdle r).curEntry = s.curEntry ∧ (s.discardToIdle r).ringData = s.ringData ∧
    (s.discardToIdle r).radioLast = s.radioLast ∧
    (s.discardToIdle r).fPan = s.fPan ∧ (s.discardToIdle r).fShort = s.fShort ∧
    (s.discardToIdle r).fExt = s.fExt ∧ (s.discardToIdle r).fAllow = s.fAllow ∧
    (s.discardToIdle r).fPromisc = s.fPromisc ∧ (s.discardToIdle r).fEnhAck = s.fEnhAck ∧
    (s.discardToIdle r).fAckFP = s.fAckFP ∧ (s.discardToIdle r).panCoord = s.panCoord ∧
    (s.discardToIdle r).beaconEn = s.beaconEn ∧ (s.discardToIdle r).dcBeacon = s.dcBeacon ∧
    (s.discardToIdle r).dcBucket = s.dcBucket ∧ (s.discardToIdle r).dcTotal = s.dcTotal ∧
    (s.discardToIdle r).dcCur = s.dcCur ∧ (s.discardToIdle r).dcMode = s.dcMode ∧
    (s.discardToIdle r).dcRecorded = s.dcRecorded ∧ (s.discardToIdle r).sched = s.sched ∧
    (s.discardToIdle r).draws = s.draws ∧ (s.discardToIdle r).busData = s.busData := by
  simp [State.discardToIdle]

/-- rxEnd() (R362). -/
@[simp] theorem State.rxEnd_fields (s : State) :
    (s.rxEnd).cfg = s.cfg ∧ (s.rxEnd).init = s.init ∧ (s.rxEnd).fatal = s.fatal ∧
    (s.rxEnd).ringAllocated = s.ringAllocated ∧ (s.rxEnd).faults = s.faults ∧ (s.rxEnd).arg0 = s.arg0 ∧
    (s.rxEnd).arg1 = s.arg1 ∧ (s.rxEnd).res = s.res ∧ (s.rxEnd).cntTotal = s.cntTotal ∧
    (s.rxEnd).cntRx = s.cntRx ∧ (s.rxEnd).inflight = s.inflight ∧ (s.rxEnd).progChannel = s.progChannel ∧
    (s.rxEnd).progValid = s.progValid ∧ (s.rxEnd).txPowerCur = s.txPowerCur ∧
    (s.rxEnd).txPowerCurValid = s.txPowerCurValid ∧ (s.rxEnd).txPowerPend = s.txPowerPend ∧
    (s.rxEnd).txPowerPendValid = s.txPowerPendValid ∧ (s.rxEnd).desc = s.desc ∧
    (s.rxEnd).txAckReq = s.txAckReq ∧ (s.rxEnd).txSeq = s.txSeq ∧ (s.rxEnd).txDur = s.txDur ∧
    (s.rxEnd).ackWait = s.ackWait ∧ (s.rxEnd).ackWaitSeq = s.ackWaitSeq ∧ (s.rxEnd).bo = s.bo ∧
    (s.rxEnd).retryEvt = s.retryEvt ∧ (s.rxEnd).retryArgs = s.retryArgs ∧ (s.rxEnd).tc = s.tc ∧
    (s.rxEnd).frameHandle = s.frameHandle ∧ (s.rxEnd).curEntry = s.curEntry ∧
    (s.rxEnd).ringData = s.ringData ∧
    (s.rxEnd).radioLast = s.radioLast ∧ (s.rxEnd).fPan = s.fPan ∧ (s.rxEnd).fShort = s.fShort ∧
    (s.rxEnd).fExt = s.fExt ∧ (s.rxEnd).fAllow = s.fAllow ∧ (s.rxEnd).fPromisc = s.fPromisc ∧
    (s.rxEnd).fEnhAck = s.fEnhAck ∧ (s.rxEnd).fAckFP = s.fAckFP ∧ (s.rxEnd).panCoord = s.panCoord ∧
    (s.rxEnd).beaconEn = s.beaconEn ∧ (s.rxEnd).dcBeacon = s.dcBeacon ∧ (s.rxEnd).dcBucket = s.dcBucket ∧
    (s.rxEnd).dcTotal = s.dcTotal ∧ (s.rxEnd).dcCur = s.dcCur ∧ (s.rxEnd).dcMode = s.dcMode ∧
    (s.rxEnd).dcRecorded = s.dcRecorded ∧ (s.rxEnd).sched = s.sched ∧ (s.rxEnd).draws = s.draws ∧
    (s.rxEnd).busData = s.busData := by
  unfold State.rxEnd
  split <;> simp

/-- parserStop() (R363). -/
@[simp] theorem State.parserStop_fields (s : State) :
    (s.parserStop).cfg = s.cfg ∧ (s.parserStop).init = s.init ∧ (s.parserStop).fatal = s.fatal ∧
    (s.parserStop).ringAllocated = s.ringAllocated ∧ (s.parserStop).faults = s.faults ∧
    (s.parserStop).arg0 = s.arg0 ∧ (s.parserStop).arg1 = s.arg1 ∧ (s.parserStop).res = s.res ∧
    (s.parserStop).cntTotal = s.cntTotal ∧ (s.parserStop).cntRx = s.cntRx ∧
    (s.parserStop).inflight = s.inflight ∧ (s.parserStop).progChannel = s.progChannel ∧
    (s.parserStop).progValid = s.progValid ∧ (s.parserStop).txPowerCur = s.txPowerCur ∧
    (s.parserStop).txPowerCurValid = s.txPowerCurValid ∧ (s.parserStop).txPowerPend = s.txPowerPend ∧
    (s.parserStop).txPowerPendValid = s.txPowerPendValid ∧ (s.parserStop).desc = s.desc ∧
    (s.parserStop).txAckReq = s.txAckReq ∧ (s.parserStop).txSeq = s.txSeq ∧
    (s.parserStop).txDur = s.txDur ∧ (s.parserStop).ackWait = s.ackWait ∧
    (s.parserStop).ackWaitSeq = s.ackWaitSeq ∧ (s.parserStop).bo = s.bo ∧
    (s.parserStop).retryEvt = s.retryEvt ∧ (s.parserStop).retryArgs = s.retryArgs ∧
    (s.parserStop).tc = s.tc ∧ (s.parserStop).frameHandle = s.frameHandle ∧
    (s.parserStop).curEntry = s.curEntry ∧ (s.parserStop).ringData = s.ringData ∧
    (s.parserStop).radioLast = s.radioLast ∧
    (s.parserStop).fPan = s.fPan ∧ (s.parserStop).fShort = s.fShort ∧ (s.parserStop).fExt = s.fExt ∧
    (s.parserStop).fAllow = s.fAllow ∧ (s.parserStop).fPromisc = s.fPromisc ∧
    (s.parserStop).fEnhAck = s.fEnhAck ∧ (s.parserStop).fAckFP = s.fAckFP ∧
    (s.parserStop).panCoord = s.panCoord ∧ (s.parserStop).beaconEn = s.beaconEn ∧
    (s.parserStop).dcBeacon = s.dcBeacon ∧ (s.parserStop).dcBucket = s.dcBucket ∧
    (s.parserStop).dcTotal = s.dcTotal ∧ (s.parserStop).dcCur = s.dcCur ∧
    (s.parserStop).dcMode = s.dcMode ∧ (s.parserStop).dcRecorded = s.dcRecorded ∧
    (s.parserStop).sched = s.sched ∧ (s.parserStop).draws = s.draws ∧ (s.parserStop).busData = s.busData := by
  unfold State.parserStop
  split <;> simp

@[simp] theorem State.haltedToIdle_fields (s : State) :
    (s.haltedToIdle).cfg = s.cfg ∧ (s.haltedToIdle).init = s.init ∧ (s.haltedToIdle).fatal = s.fatal ∧
    (s.haltedToIdle).ringAllocated = s.ringAllocated ∧ (s.haltedToIdle).faults = s.faults ∧
    (s.haltedToIdle).arg0 = s.arg0 ∧ (s.haltedToIdle).arg1 = s.arg1 ∧ (s.haltedToIdle).res = s.res ∧
    (s.haltedToIdle).cntTotal = s.cntTotal ∧ (s.haltedToIdle).cntRx = s.cntRx ∧
    (s.haltedToIdle).inflight = s.inflight ∧ (s.haltedToIdle).progChannel = s.progChannel ∧
    (s.haltedToIdle).progValid = s.progValid ∧ (s.haltedToIdle).txPowerCur = s.txPowerCur ∧
    (s.haltedToIdle).txPowerCurValid = s.txPowerCurValid ∧ (s.haltedToIdle).txPowerPend = s.txPowerPend ∧
    (s.haltedToIdle).txPowerPendValid = s.txPowerPendValid ∧ (s.haltedToIdle).desc = s.desc ∧
    (s.haltedToIdle).txAckReq = s.txAckReq ∧ (s.haltedToIdle).txSeq = s.txSeq ∧
    (s.haltedToIdle).txDur = s.txDur ∧ (s.haltedToIdle).ackQueued = s.ackQueued ∧
    (s.haltedToIdle).ackWait = s.ackWait ∧ (s.haltedToIdle).ackWaitSeq = s.ackWaitSeq ∧
    (s.haltedToIdle).bo = s.bo ∧ (s.haltedToIdle).retryEvt = s.retryEvt ∧
    (s.haltedToIdle).retryArgs = s.retryArgs ∧ (s.haltedToIdle).tc = s.tc ∧
    (s.haltedToIdle).frameHandle = s.frameHandle ∧ (s.haltedToIdle).curEntry = s.curEntry ∧
    (s.haltedToIdle).pf = s.pf ∧ (s.haltedToIdle).ring = s.ring ∧ (s.haltedToIdle).ringData = s.ringData ∧
    (s.haltedToIdle).radioLast = s.radioLast ∧
    (s.haltedToIdle).rdIdx = s.rdIdx ∧ (s.haltedToIdle).fPan = s.fPan ∧
    (s.haltedToIdle).fShort = s.fShort ∧ (s.haltedToIdle).fExt = s.fExt ∧
    (s.haltedToIdle).fAllow = s.fAllow ∧ (s.haltedToIdle).fPromisc = s.fPromisc ∧
    (s.haltedToIdle).fEnhAck = s.fEnhAck ∧ (s.haltedToIdle).fAckFP = s.fAckFP ∧
    (s.haltedToIdle).panCoord = s.panCoord ∧ (s.haltedToIdle).beaconEn = s.beaconEn ∧
    (s.haltedToIdle).dcBeacon = s.dcBeacon ∧ (s.haltedToIdle).dcBucket = s.dcBucket ∧
    (s.haltedToIdle).dcTotal = s.dcTotal ∧ (s.haltedToIdle).dcCur = s.dcCur ∧
    (s.haltedToIdle).dcMode = s.dcMode ∧ (s.haltedToIdle).dcRecorded = s.dcRecorded ∧
    (s.haltedToIdle).diag = s.diag ∧ (s.haltedToIdle).out = s.out ∧ (s.haltedToIdle).sched = s.sched ∧
    (s.haltedToIdle).draws = s.draws ∧ (s.haltedToIdle).busData = s.busData := by
  unfold State.haltedToIdle
  split <;> simp

@[simp] theorem State.unexpectedEnd_fields (s : State) :
    (s.unexpectedEnd).cfg = s.cfg ∧ (s.unexpectedEnd).init = s.init ∧ (s.unexpectedEnd).fatal = s.fatal ∧
    (s.unexpectedEnd).ringAllocated = s.ringAllocated ∧ (s.unexpectedEnd).faults = s.faults ∧
    (s.unexpectedEnd).arg0 = s.arg0 ∧ (s.unexpectedEnd).arg1 = s.arg1 ∧ (s.unexpectedEnd).res = s.res ∧
    (s.unexpectedEnd).cntTotal = s.cntTotal ∧ (s.unexpectedEnd).cntRx = s.cntRx ∧
    (s.unexpectedEnd).inflight = s.inflight ∧ (s.unexpectedEnd).progChannel = s.progChannel ∧
    (s.unexpectedEnd).progValid = s.progValid ∧ (s.unexpectedEnd).txPowerCur = s.txPowerCur ∧
    (s.unexpectedEnd).txPowerCurValid = s.txPowerCurValid ∧ (s.unexpectedEnd).txPowerPend = s.txPowerPend ∧
    (s.unexpectedEnd).txPowerPendValid = s.txPowerPendValid ∧ (s.unexpectedEnd).desc = s.desc ∧
    (s.unexpectedEnd).txAckReq = s.txAckReq ∧ (s.unexpectedEnd).txSeq = s.txSeq ∧
    (s.unexpectedEnd).txDur = s.txDur ∧ (s.unexpectedEnd).ackQueued = s.ackQueued ∧
    (s.unexpectedEnd).ackWait = s.ackWait ∧ (s.unexpectedEnd).ackWaitSeq = s.ackWaitSeq ∧
    (s.unexpectedEnd).bo = s.bo ∧ (s.unexpectedEnd).retryEvt = s.retryEvt ∧
    (s.unexpectedEnd).retryArgs = s.retryArgs ∧ (s.unexpectedEnd).tc = s.tc ∧
    (s.unexpectedEnd).rxState = s.rxState ∧ (s.unexpectedEnd).frameHandle = s.frameHandle ∧
    (s.unexpectedEnd).curEntry = s.curEntry ∧ (s.unexpectedEnd).pf = s.pf ∧
    (s.unexpectedEnd).ringData = s.ringData ∧
    (s.unexpectedEnd).radioLast = s.radioLast ∧ (s.unexpectedEnd).fPan = s.fPan ∧
    (s.unexpectedEnd).fShort = s.fShort ∧ (s.unexpectedEnd).fExt = s.fExt ∧
    (s.unexpectedEnd).fAllow = s.fAllow ∧ (s.unexpectedEnd).fPromisc = s.fPromisc ∧
    (s.unexpectedEnd).fEnhAck = s.fEnhAck ∧ (s.unexpectedEnd).fAckFP = s.fAckFP ∧
    (s.unexpectedEnd).panCoord = s.panCoord ∧ (s.unexpectedEnd).beaconEn = s.beaconEn ∧
    (s.unexpectedEnd).dcBeacon = s.dcBeacon ∧ (s.unexpectedEnd).dcBucket = s.dcBucket ∧
    (s.unexpectedEnd).dcTotal = s.dcTotal ∧ (s.unexpectedEnd).dcCur = s.dcCur ∧
    (s.unexpectedEnd).dcMode = s.dcMode ∧ (s.unexpectedEnd).dcRecorded = s.dcRecorded ∧
    (s.unexpectedEnd).sched = s.sched ∧ (s.unexpectedEnd).draws = s.draws ∧
    (s.unexpectedEnd).busData = s.busData := by
  simp only [State.unexpectedEnd]
  split <;> simp

/-! ## Submissions -/

@[simp] theorem State.buildChain_fields (p0 p1 : Slot → Word) (l : List Slot) : ∀ (s : State) (h : Bool),
    (s.buildChain p0 p1 h l).cfg = s.cfg ∧ (s.buildChain p0 p1 h l).init = s.init ∧
    (s.buildChain p0 p1 h l).fatal = s.fatal ∧ (s.buildChain p0 p1 h l).ringAllocated = s.ringAllocated ∧
    (s.buildChain p0 p1 h l).faults = s.faults ∧ (s.buildChain p0 p1 h l).arg0 = s.arg0 ∧
    (s.buildChain p0 p1 h l).arg1 = s.arg1 ∧ (s.buildChain p0 p1 h l).res = s.res ∧
    (s.buildChain p0 p1 h l).cntTotal = s.cntTotal ∧ (s.buildChain p0 p1 h l).cntRx = s.cntRx ∧
    (s.buildChain p0 p1 h l).inflight = s.inflight ∧ (s.buildChain p0 p1 h l).progChannel = s.progChannel ∧
    (s.buildChain p0 p1 h l).progValid = s.progValid ∧ (s.buildChain p0 p1 h l).txPowerCur = s.txPowerCur ∧
    (s.buildChain p0 p1 h l).txPowerCurValid = s.txPowerCurValid ∧
    (s.buildChain p0 p1 h l).txPowerPend = s.txPowerPend ∧
    (s.buildChain p0 p1 h l).txPowerPendValid = s.txPowerPendValid ∧
    (s.buildChain p0 p1 h l).txAckReq = s.txAckReq ∧ (s.buildChain p0 p1 h l).txSeq = s.txSeq ∧
    (s.buildChain p0 p1 h l).txDur = s.txDur ∧ (s.buildChain p0 p1 h l).ackQueued = s.ackQueued ∧
    (s.buildChain p0 p1 h l).ackWait = s.ackWait ∧ (s.buildChain p0 p1 h l).ackWaitSeq = s.ackWaitSeq ∧
    (s.buildChain p0 p1 h l).bo = s.bo ∧ (s.buildChain p0 p1 h l).retryEvt = s.retryEvt ∧
    (s.buildChain p0 p1 h l).retryArgs = s.retryArgs ∧ (s.buildChain p0 p1 h l).tc = s.tc ∧
    (s.buildChain p0 p1 h l).rxState = s.rxState ∧ (s.buildChain p0 p1 h l).frameHandle = s.frameHandle ∧
    (s.buildChain p0 p1 h l).curEntry = s.curEntry ∧ (s.buildChain p0 p1 h l).pf = s.pf ∧
    (s.buildChain p0 p1 h l).ring = s.ring ∧ (s.buildChain p0 p1 h l).ringData = s.ringData ∧
    (s.buildChain p0 p1 h l).radioLast = s.radioLast ∧
    (s.buildChain p0 p1 h l).rdIdx = s.rdIdx ∧ (s.buildChain p0 p1 h l).fPan = s.fPan ∧
    (s.buildChain p0 p1 h l).fShort = s.fShort ∧ (s.buildChain p0 p1 h l).fExt = s.fExt ∧
    (s.buildChain p0 p1 h l).fAllow = s.fAllow ∧ (s.buildChain p0 p1 h l).fPromisc = s.fPromisc ∧
    (s.buildChain p0 p1 h l).fEnhAck = s.fEnhAck ∧ (s.buildChain p0 p1 h l).fAckFP = s.fAckFP ∧
    (s.buildChain p0 p1 h l).panCoord = s.panCoord ∧ (s.buildChain p0 p1 h l).beaconEn = s.beaconEn ∧
    (s.buildChain p0 p1 h l).dcBeacon = s.dcBeacon ∧ (s.buildChain p0 p1 h l).dcBucket = s.dcBucket ∧
    (s.buildChain p0 p1 h l).dcTotal = s.dcTotal ∧ (s.buildChain p0 p1 h l).dcCur = s.dcCur ∧
    (s.buildChain p0 p1 h l).dcMode = s.dcMode ∧ (s.buildChain p0 p1 h l).dcRecorded = s.dcRecorded ∧
    (s.buildChain p0 p1 h l).diag = s.diag ∧ (s.buildChain p0 p1 h l).out = s.out ∧
    (s.buildChain p0 p1 h l).sched = s.sched ∧ (s.buildChain p0 p1 h l).draws = s.draws ∧
    (s.buildChain p0 p1 h l).busData = s.busData := by
  induction l with
  | nil => intro s h; simp [State.buildChain]
  | cons x l ih => intro s h; simp [State.buildChain, ih]

@[simp] theorem State.chainRx_fields (s : State) (ch : Half) :
    (s.chainRx ch).cfg = s.cfg ∧ (s.chainRx ch).init = s.init ∧ (s.chainRx ch).fatal = s.fatal ∧
    (s.chainRx ch).ringAllocated = s.ringAllocated ∧ (s.chainRx ch).faults = s.faults ∧
    (s.chainRx ch).arg0 = s.arg0 ∧ (s.chainRx ch).arg1 = s.arg1 ∧ (s.chainRx ch).res = s.res ∧
    (s.chainRx ch).cntTotal = s.cntTotal ∧ (s.chainRx ch).cntRx = s.cntRx ∧
    (s.chainRx ch).inflight = s.inflight ∧ (s.chainRx ch).progChannel = s.progChannel ∧
    (s.chainRx ch).progValid = s.progValid ∧ (s.chainRx ch).txPowerCur = s.txPowerCur ∧
    (s.chainRx ch).txPowerCurValid = s.txPowerCurValid ∧ (s.chainRx ch).txPowerPend = s.txPowerPend ∧
    (s.chainRx ch).txPowerPendValid = s.txPowerPendValid ∧ (s.chainRx ch).txAckReq = s.txAckReq ∧
    (s.chainRx ch).txSeq = s.txSeq ∧ (s.chainRx ch).txDur = s.txDur ∧
    (s.chainRx ch).ackQueued = s.ackQueued ∧ (s.chainRx ch).ackWait = s.ackWait ∧
    (s.chainRx ch).ackWaitSeq = s.ackWaitSeq ∧ (s.chainRx ch).bo = s.bo ∧
    (s.chainRx ch).retryEvt = s.retryEvt ∧ (s.chainRx ch).retryArgs = s.retryArgs ∧
    (s.chainRx ch).tc = s.tc ∧ (s.chainRx ch).rxState = s.rxState ∧
    (s.chainRx ch).frameHandle = s.frameHandle ∧ (s.chainRx ch).curEntry = s.curEntry ∧
    (s.chainRx ch).pf = s.pf ∧ (s.chainRx ch).ring = s.ring ∧ (s.chainRx ch).ringData = s.ringData ∧
    (s.chainRx ch).radioLast = s.radioLast ∧
    (s.chainRx ch).rdIdx = s.rdIdx ∧ (s.chainRx ch).fPan = s.fPan ∧ (s.chainRx ch).fShort = s.fShort ∧
    (s.chainRx ch).fExt = s.fExt ∧ (s.chainRx ch).fAllow = s.fAllow ∧
    (s.chainRx ch).fPromisc = s.fPromisc ∧ (s.chainRx ch).fEnhAck = s.fEnhAck ∧
    (s.chainRx ch).fAckFP = s.fAckFP ∧ (s.chainRx ch).panCoord = s.panCoord ∧
    (s.chainRx ch).beaconEn = s.beaconEn ∧ (s.chainRx ch).dcBeacon = s.dcBeacon ∧
    (s.chainRx ch).dcBucket = s.dcBucket ∧ (s.chainRx ch).dcTotal = s.dcTotal ∧
    (s.chainRx ch).dcCur = s.dcCur ∧ (s.chainRx ch).dcMode = s.dcMode ∧
    (s.chainRx ch).dcRecorded = s.dcRecorded ∧ (s.chainRx ch).diag = s.diag ∧ (s.chainRx ch).out = s.out ∧
    (s.chainRx ch).sched = s.sched ∧ (s.chainRx ch).draws = s.draws ∧ (s.chainRx ch).busData = s.busData := by
  simp [State.chainRx]

@[simp] theorem State.chainTx_fields (s : State) (ch : Half) (cca : Bool) (b : Byte) (l : BitVec 11) (w : Word) :
    (s.chainTx ch cca b l w).cfg = s.cfg ∧ (s.chainTx ch cca b l w).init = s.init ∧
    (s.chainTx ch cca b l w).fatal = s.fatal ∧ (s.chainTx ch cca b l w).ringAllocated = s.ringAllocated ∧
    (s.chainTx ch cca b l w).faults = s.faults ∧ (s.chainTx ch cca b l w).arg0 = s.arg0 ∧
    (s.chainTx ch cca b l w).arg1 = s.arg1 ∧ (s.chainTx ch cca b l w).res = s.res ∧
    (s.chainTx ch cca b l w).cntTotal = s.cntTotal ∧ (s.chainTx ch cca b l w).cntRx = s.cntRx ∧
    (s.chainTx ch cca b l w).inflight = s.inflight ∧ (s.chainTx ch cca b l w).progChannel = s.progChannel ∧
    (s.chainTx ch cca b l w).progValid = s.progValid ∧ (s.chainTx ch cca b l w).txPowerCur = s.txPowerCur ∧
    (s.chainTx ch cca b l w).txPowerCurValid = s.txPowerCurValid ∧
    (s.chainTx ch cca b l w).txPowerPend = s.txPowerPend ∧
    (s.chainTx ch cca b l w).txPowerPendValid = s.txPowerPendValid ∧
    (s.chainTx ch cca b l w).txAckReq = s.txAckReq ∧ (s.chainTx ch cca b l w).txSeq = s.txSeq ∧
    (s.chainTx ch cca b l w).txDur = s.txDur ∧ (s.chainTx ch cca b l w).ackQueued = s.ackQueued ∧
    (s.chainTx ch cca b l w).ackWait = s.ackWait ∧ (s.chainTx ch cca b l w).ackWaitSeq = s.ackWaitSeq ∧
    (s.chainTx ch cca b l w).bo = s.bo ∧ (s.chainTx ch cca b l w).retryEvt = s.retryEvt ∧
    (s.chainTx ch cca b l w).retryArgs = s.retryArgs ∧ (s.chainTx ch cca b l w).tc = s.tc ∧
    (s.chainTx ch cca b l w).rxState = s.rxState ∧ (s.chainTx ch cca b l w).frameHandle = s.frameHandle ∧
    (s.chainTx ch cca b l w).curEntry = s.curEntry ∧ (s.chainTx ch cca b l w).pf = s.pf ∧
    (s.chainTx ch cca b l w).ring = s.ring ∧ (s.chainTx ch cca b l w).ringData = s.ringData ∧
    (s.chainTx ch cca b l w).radioLast = s.radioLast ∧
    (s.chainTx ch cca b l w).rdIdx = s.rdIdx ∧ (s.chainTx ch cca b l w).fPan = s.fPan ∧
    (s.chainTx ch cca b l w).fShort = s.fShort ∧ (s.chainTx ch cca b l w).fExt = s.fExt ∧
    (s.chainTx ch cca b l w).fAllow = s.fAllow ∧ (s.chainTx ch cca b l w).fPromisc = s.fPromisc ∧
    (s.chainTx ch cca b l w).fEnhAck = s.fEnhAck ∧ (s.chainTx ch cca b l w).fAckFP = s.fAckFP ∧
    (s.chainTx ch cca b l w).panCoord = s.panCoord ∧ (s.chainTx ch cca b l w).beaconEn = s.beaconEn ∧
    (s.chainTx ch cca b l w).dcBeacon = s.dcBeacon ∧ (s.chainTx ch cca b l w).dcBucket = s.dcBucket ∧
    (s.chainTx ch cca b l w).dcTotal = s.dcTotal ∧ (s.chainTx ch cca b l w).dcCur = s.dcCur ∧
    (s.chainTx ch cca b l w).dcMode = s.dcMode ∧ (s.chainTx ch cca b l w).dcRecorded = s.dcRecorded ∧
    (s.chainTx ch cca b l w).diag = s.diag ∧ (s.chainTx ch cca b l w).out = s.out ∧
    (s.chainTx ch cca b l w).sched = s.sched ∧ (s.chainTx ch cca b l w).draws = s.draws ∧
    (s.chainTx ch cca b l w).busData = s.busData := by
  simp [State.chainTx]

@[simp] theorem State.chainNoop_fields (s : State) :
    (s.chainNoop).cfg = s.cfg ∧ (s.chainNoop).init = s.init ∧ (s.chainNoop).fatal = s.fatal ∧
    (s.chainNoop).ringAllocated = s.ringAllocated ∧ (s.chainNoop).faults = s.faults ∧
    (s.chainNoop).arg0 = s.arg0 ∧ (s.chainNoop).arg1 = s.arg1 ∧ (s.chainNoop).res = s.res ∧
    (s.chainNoop).cntTotal = s.cntTotal ∧ (s.chainNoop).cntRx = s.cntRx ∧
    (s.chainNoop).inflight = s.inflight ∧ (s.chainNoop).progChannel = s.progChannel ∧
    (s.chainNoop).progValid = s.progValid ∧ (s.chainNoop).txPowerCur = s.txPowerCur ∧
    (s.chainNoop).txPowerCurValid = s.txPowerCurValid ∧ (s.chainNoop).txPowerPend = s.txPowerPend ∧
    (s.chainNoop).txPowerPendValid = s.txPowerPendValid ∧ (s.chainNoop).txAckReq = s.txAckReq ∧
    (s.chainNoop).txSeq = s.txSeq ∧ (s.chainNoop).txDur = s.txDur ∧ (s.chainNoop).ackQueued = s.ackQueued ∧
    (s.chainNoop).ackWait = s.ackWait ∧ (s.chainNoop).ackWaitSeq = s.ackWaitSeq ∧ (s.chainNoop).bo = s.bo ∧
    (s.chainNoop).retryEvt = s.retryEvt ∧ (s.chainNoop).retryArgs = s.retryArgs ∧ (s.chainNoop).tc = s.tc ∧
    (s.chainNoop).rxState = s.rxState ∧ (s.chainNoop).frameHandle = s.frameHandle ∧
    (s.chainNoop).curEntry = s.curEntry ∧ (s.chainNoop).pf = s.pf ∧ (s.chainNoop).ring = s.ring ∧
    (s.chainNoop).ringData = s.ringData ∧
    (s.chainNoop).radioLast = s.radioLast ∧ (s.chainNoop).rdIdx = s.rdIdx ∧ (s.chainNoop).fPan = s.fPan ∧
    (s.chainNoop).fShort = s.fShort ∧ (s.chainNoop).fExt = s.fExt ∧ (s.chainNoop).fAllow = s.fAllow ∧
    (s.chainNoop).fPromisc = s.fPromisc ∧ (s.chainNoop).fEnhAck = s.fEnhAck ∧
    (s.chainNoop).fAckFP = s.fAckFP ∧ (s.chainNoop).panCoord = s.panCoord ∧
    (s.chainNoop).beaconEn = s.beaconEn ∧ (s.chainNoop).dcBeacon = s.dcBeacon ∧
    (s.chainNoop).dcBucket = s.dcBucket ∧ (s.chainNoop).dcTotal = s.dcTotal ∧
    (s.chainNoop).dcCur = s.dcCur ∧ (s.chainNoop).dcMode = s.dcMode ∧
    (s.chainNoop).dcRecorded = s.dcRecorded ∧ (s.chainNoop).diag = s.diag ∧ (s.chainNoop).out = s.out ∧
    (s.chainNoop).sched = s.sched ∧ (s.chainNoop).draws = s.draws ∧ (s.chainNoop).busData = s.busData := by
  simp [State.chainNoop]

/-- submit(p, m, start) (40_scheduler.md R232). -/
@[simp] theorem State.submit_fields (s : State) (p h : Slot) (st : Option Word) :
    ((s.submit p h st).2).cfg = s.cfg ∧ ((s.submit p h st).2).init = s.init ∧
    ((s.submit p h st).2).fatal = s.fatal ∧ ((s.submit p h st).2).ringAllocated = s.ringAllocated ∧
    ((s.submit p h st).2).faults = s.faults ∧ ((s.submit p h st).2).arg0 = s.arg0 ∧
    ((s.submit p h st).2).arg1 = s.arg1 ∧ ((s.submit p h st).2).res = s.res ∧
    ((s.submit p h st).2).cntTotal = s.cntTotal ∧ ((s.submit p h st).2).cntRx = s.cntRx ∧
    ((s.submit p h st).2).inflight = s.inflight ∧ ((s.submit p h st).2).progChannel = s.progChannel ∧
    ((s.submit p h st).2).progValid = s.progValid ∧ ((s.submit p h st).2).txPowerCur = s.txPowerCur ∧
    ((s.submit p h st).2).txPowerCurValid = s.txPowerCurValid ∧
    ((s.submit p h st).2).txPowerPend = s.txPowerPend ∧
    ((s.submit p h st).2).txPowerPendValid = s.txPowerPendValid ∧ ((s.submit p h st).2).desc = s.desc ∧
    ((s.submit p h st).2).txAckReq = s.txAckReq ∧ ((s.submit p h st).2).txSeq = s.txSeq ∧
    ((s.submit p h st).2).txDur = s.txDur ∧ ((s.submit p h st).2).ackQueued = s.ackQueued ∧
    ((s.submit p h st).2).ackWait = s.ackWait ∧ ((s.submit p h st).2).ackWaitSeq = s.ackWaitSeq ∧
    ((s.submit p h st).2).bo = s.bo ∧ ((s.submit p h st).2).retryEvt = s.retryEvt ∧
    ((s.submit p h st).2).retryArgs = s.retryArgs ∧ ((s.submit p h st).2).tc = s.tc ∧
    ((s.submit p h st).2).rxState = s.rxState ∧ ((s.submit p h st).2).frameHandle = s.frameHandle ∧
    ((s.submit p h st).2).curEntry = s.curEntry ∧ ((s.submit p h st).2).pf = s.pf ∧
    ((s.submit p h st).2).ring = s.ring ∧ ((s.submit p h st).2).ringData = s.ringData ∧
    ((s.submit p h st).2).radioLast = s.radioLast ∧
    ((s.submit p h st).2).rdIdx = s.rdIdx ∧ ((s.submit p h st).2).fPan = s.fPan ∧
    ((s.submit p h st).2).fShort = s.fShort ∧ ((s.submit p h st).2).fExt = s.fExt ∧
    ((s.submit p h st).2).fAllow = s.fAllow ∧ ((s.submit p h st).2).fPromisc = s.fPromisc ∧
    ((s.submit p h st).2).fEnhAck = s.fEnhAck ∧ ((s.submit p h st).2).fAckFP = s.fAckFP ∧
    ((s.submit p h st).2).panCoord = s.panCoord ∧ ((s.submit p h st).2).beaconEn = s.beaconEn ∧
    ((s.submit p h st).2).dcBeacon = s.dcBeacon ∧ ((s.submit p h st).2).dcBucket = s.dcBucket ∧
    ((s.submit p h st).2).dcTotal = s.dcTotal ∧ ((s.submit p h st).2).dcCur = s.dcCur ∧
    ((s.submit p h st).2).dcMode = s.dcMode ∧ ((s.submit p h st).2).dcRecorded = s.dcRecorded ∧
    ((s.submit p h st).2).diag = s.diag ∧ ((s.submit p h st).2).sched = s.sched ∧
    ((s.submit p h st).2).busData = s.busData := by
  simp [State.submit]

@[simp] theorem State.submit_out (s : State) (p h : Slot) (st : Option Word) :
    (s.submit p h st).2.out = s.out ++ [.submit p h p.eventMask st] := by simp [State.submit]

/-- The radio's answer, and what is left of the draws, depend on the draws alone. -/
theorem State.drawAccept_congr {s t : State} (h : t.draws = s.draws) :
    t.drawAccept.1 = s.drawAccept.1 ∧ t.drawAccept.2.draws = s.drawAccept.2.draws := by
  unfold State.drawAccept State.bumpFree
  rw [h]
  split <;> simp

theorem State.submit_accept (s : State) (p h : Slot) (st : Option Word) :
    (s.submit p h st).1 = s.drawAccept.1 ∧ (s.submit p h st).2.draws = s.drawAccept.2.draws :=
  State.drawAccept_congr (by simp)

/-- onAccepted(p, m) (R232). -/
@[simp] theorem State.onAccepted_fields (s : State) (p : Slot) (m : List Slot) :
    (s.onAccepted p m).cfg = s.cfg ∧ (s.onAccepted p m).init = s.init ∧
    (s.onAccepted p m).fatal = s.fatal ∧ (s.onAccepted p m).ringAllocated = s.ringAllocated ∧
    (s.onAccepted p m).faults = s.faults ∧ (s.onAccepted p m).arg0 = s.arg0 ∧
    (s.onAccepted p m).arg1 = s.arg1 ∧ (s.onAccepted p m).res = s.res ∧
    (s.onAccepted p m).progChannel = s.progChannel ∧ (s.onAccepted p m).progValid = s.progValid ∧
    (s.onAccepted p m).txPowerCur = s.txPowerCur ∧ (s.onAccepted p m).txPowerCurValid = s.txPowerCurValid ∧
    (s.onAccepted p m).txPowerPend = s.txPowerPend ∧
    (s.onAccepted p m).txPowerPendValid = s.txPowerPendValid ∧ (s.onAccepted p m).desc = s.desc ∧
    (s.onAccepted p m).txAckReq = s.txAckReq ∧ (s.onAccepted p m).txSeq = s.txSeq ∧
    (s.onAccepted p m).txDur = s.txDur ∧ (s.onAccepted p m).ackQueued = s.ackQueued ∧
    (s.onAccepted p m).ackWait = s.ackWait ∧ (s.onAccepted p m).ackWaitSeq = s.ackWaitSeq ∧
    (s.onAccepted p m).bo = s.bo ∧ (s.onAccepted p m).retryEvt = s.retryEvt ∧
    (s.onAccepted p m).retryArgs = s.retryArgs ∧ (s.onAccepted p m).tc = s.tc ∧
    (s.onAccepted p m).rxState = s.rxState ∧ (s.onAccepted p m).frameHandle = s.frameHandle ∧
    (s.onAccepted p m).curEntry = s.curEntry ∧ (s.onAccepted p m).pf = s.pf ∧
    (s.onAccepted p m).ring = s.ring ∧ (s.onAccepted p m).ringData = s.ringData ∧
    (s.onAccepted p m).radioLast = s.radioLast ∧
    (s.onAccepted p m).rdIdx = s.rdIdx ∧ (s.onAccepted p m).fPan = s.fPan ∧
    (s.onAccepted p m).fShort = s.fShort ∧ (s.onAccepted p m).fExt = s.fExt ∧
    (s.onAccepted p m).fAllow = s.fAllow ∧ (s.onAccepted p m).fPromisc = s.fPromisc ∧
    (s.onAccepted p m).fEnhAck = s.fEnhAck ∧ (s.onAccepted p m).fAckFP = s.fAckFP ∧
    (s.onAccepted p m).panCoord = s.panCoord ∧ (s.onAccepted p m).beaconEn = s.beaconEn ∧
    (s.onAccepted p m).dcBeacon = s.dcBeacon ∧ (s.onAccepted p m).dcBucket = s.dcBucket ∧
    (s.onAccepted p m).dcTotal = s.dcTotal ∧ (s.onAccepted p m).dcCur = s.dcCur ∧
    (s.onAccepted p m).dcMode = s.dcMode ∧ (s.onAccepted p m).dcRecorded = s.dcRecorded ∧
    (s.onAccepted p m).diag = s.diag ∧ (s.onAccepted p m).sched = s.sched ∧
    (s.onAccepted p m).draws = s.draws ∧ (s.onAccepted p m).busData = s.busData := by
  simp only [State.onAccepted]
  split <;> simp

@[simp] theorem State.onAccepted_inflight (s : State) (p : Slot) (m : List Slot) :
    (s.onAccepted p m).inflight = s.inflight.setAll true m := by
  simp only [State.onAccepted]
  split <;> simp

@[simp] theorem State.onAccepted_cntTotal (s : State) (p : Slot) (m : List Slot) :
    (s.onAccepted p m).cntTotal = s.cntTotal + 1 := by
  simp only [State.onAccepted]
  split <;> simp

@[simp] theorem State.onAccepted_cntRx (s : State) (p : Slot) (m : List Slot) :
    (s.onAccepted p m).cntRx = if p = .rx then s.cntRx + 1 else s.cntRx := by
  simp only [State.onAccepted]
  split <;> split <;> simp

theorem State.onAccepted_out (s : State) (p : Slot) (m : List Slot) :
    (s.onAccepted p m).out = s.out ++ (if s.cntTotal = 0 then [.powerVote .hold] else []) := by
  simp only [State.onAccepted]
  split <;> simp_all

/-- boRequest(c, d) (43_backoff_timers.md R430). -/
@[simp] theorem State.boRequest_fields (s : State) (c : OpClass) (d : Word) :
    (s.boRequest c d).cfg = s.cfg ∧ (s.boRequest c d).init = s.init ∧ (s.boRequest c d).fatal = s.fatal ∧
    (s.boRequest c d).ringAllocated = s.ringAllocated ∧ (s.boRequest c d).faults = s.faults ∧
    (s.boRequest c d).arg0 = s.arg0 ∧ (s.boRequest c d).arg1 = s.arg1 ∧ (s.boRequest c d).res = s.res ∧
    (s.boRequest c d).cntTotal = s.cntTotal ∧ (s.boRequest c d).cntRx = s.cntRx ∧
    (s.boRequest c d).inflight = s.inflight ∧ (s.boRequest c d).progChannel = s.progChannel ∧
    (s.boRequest c d).progValid = s.progValid ∧ (s.boRequest c d).txPowerCur = s.txPowerCur ∧
    (s.boRequest c d).txPowerCurValid = s.txPowerCurValid ∧ (s.boRequest c d).txPowerPend = s.txPowerPend ∧
    (s.boRequest c d).txPowerPendValid = s.txPowerPendValid ∧ (s.boRequest c d).desc = s.desc ∧
    (s.boRequest c d).txAckReq = s.txAckReq ∧ (s.boRequest c d).txSeq = s.txSeq ∧
    (s.boRequest c d).txDur = s.txDur ∧ (s.boRequest c d).ackQueued = s.ackQueued ∧
    (s.boRequest c d).ackWait = s.ackWait ∧ (s.boRequest c d).ackWaitSeq = s.ackWaitSeq ∧
    (s.boRequest c d).retryArgs = s.retryArgs ∧ (s.boRequest c d).tc = s.tc ∧
    (s.boRequest c d).rxState = s.rxState ∧ (s.boRequest c d).frameHandle = s.frameHandle ∧
    (s.boRequest c d).curEntry = s.curEntry ∧ (s.boRequest c d).pf = s.pf ∧
    (s.boRequest c d).ring = s.ring ∧ (s.boRequest c d).ringData = s.ringData ∧
    (s.boRequest c d).radioLast = s.radioLast ∧
    (s.boRequest c d).rdIdx = s.rdIdx ∧ (s.boRequest c d).fPan = s.fPan ∧
    (s.boRequest c d).fShort = s.fShort ∧ (s.boRequest c d).fExt = s.fExt ∧
    (s.boRequest c d).fAllow = s.fAllow ∧ (s.boRequest c d).fPromisc = s.fPromisc ∧
    (s.boRequest c d).fEnhAck = s.fEnhAck ∧ (s.boRequest c d).fAckFP = s.fAckFP ∧
    (s.boRequest c d).panCoord = s.panCoord ∧ (s.boRequest c d).beaconEn = s.beaconEn ∧
    (s.boRequest c d).dcBeacon = s.dcBeacon ∧ (s.boRequest c d).dcBucket = s.dcBucket ∧
    (s.boRequest c d).dcTotal = s.dcTotal ∧ (s.boRequest c d).dcCur = s.dcCur ∧
    (s.boRequest c d).dcMode = s.dcMode ∧ (s.boRequest c d).dcRecorded = s.dcRecorded ∧
    (s.boRequest c d).diag = s.diag ∧ (s.boRequest c d).out = s.out ∧ (s.boRequest c d).sched = s.sched ∧
    (s.boRequest c d).draws = s.draws ∧ (s.boRequest c d).busData = s.busData := by
  unfold State.boRequest
  split <;> simp

theorem State.doSubmitRx_eq (s : State) (ch : Half) :
    s.doSubmitRx ch =
      let a := (s.chainRx ch).submit .rx ((s.rxChain ch).headD .rx) none
      if a.1 then (.ok, ((a.2.onAccepted .rx (s.rxChain ch)).setProgrammed ch).clearBackoff .rx)
      else (.rejected, (a.2.boRequest .rx a.2.cfg.rxBoDelay).storeRetry .rx ⟨true, ch, 0, 0, 0⟩) := rfl

theorem State.doSubmitTx_eq (s : State) (ch : Half) (f : BitVec 4) (a0 a1 : Word) :
    s.doSubmitTx ch f a0 a1 =
      if s.dcAllowed a0 then
        let a := (s.chainTx ch (f.getLsbD 1) (txBufField a1) (txLenField a1) a0).submit .tx
          ((s.txChain ch (f.getLsbD 1)).headD .tx) none
        if a.1 then
          (.ok, (((a.2.onAccepted .tx (s.txChain ch (f.getLsbD 1))).setProgrammed ch).setTxContext f a0 a1).clearBackoff .tx)
        else (.rejected, (a.2.boRequest .tx a.2.cfg.txBoDelay).storeRetry .tx ⟨true, ch, f, a0, a1⟩)
      else (.dcBlocked, s) := rfl

theorem State.doSubmitNoop_eq (s : State) :
    s.doSubmitNoop =
      let a := s.chainNoop.submit .noop .noop none
      if a.1 then (.ok, (a.2.onAccepted .noop [.noop]).clearBackoff .noop)
      else (.rejected, (a.2.boRequest .noop a.2.cfg.noopBoDelay).storeRetry .noop ⟨true, 0, 0, 0, 0⟩) := rfl

/-- doSubmitRx(ch) (R234). -/
@[simp] theorem State.doSubmitRx_fields (s : State) (ch : Half) :
    ((s.doSubmitRx ch).2).cfg = s.cfg ∧ ((s.doSubmitRx ch).2).init = s.init ∧
    ((s.doSubmitRx ch).2).fatal = s.fatal ∧ ((s.doSubmitRx ch).2).ringAllocated = s.ringAllocated ∧
    ((s.doSubmitRx ch).2).faults = s.faults ∧ ((s.doSubmitRx ch).2).arg0 = s.arg0 ∧
    ((s.doSubmitRx ch).2).arg1 = s.arg1 ∧ ((s.doSubmitRx ch).2).res = s.res ∧
    ((s.doSubmitRx ch).2).txPowerCur = s.txPowerCur ∧
    ((s.doSubmitRx ch).2).txPowerCurValid = s.txPowerCurValid ∧
    ((s.doSubmitRx ch).2).txPowerPend = s.txPowerPend ∧
    ((s.doSubmitRx ch).2).txPowerPendValid = s.txPowerPendValid ∧
    ((s.doSubmitRx ch).2).txAckReq = s.txAckReq ∧ ((s.doSubmitRx ch).2).txSeq = s.txSeq ∧
    ((s.doSubmitRx ch).2).txDur = s.txDur ∧ ((s.doSubmitRx ch).2).ackQueued = s.ackQueued ∧
    ((s.doSubmitRx ch).2).ackWait = s.ackWait ∧ ((s.doSubmitRx ch).2).ackWaitSeq = s.ackWaitSeq ∧
    ((s.doSubmitRx ch).2).tc = s.tc ∧ ((s.doSubmitRx ch).2).rxState = s.rxState ∧
    ((s.doSubmitRx ch).2).frameHandle = s.frameHandle ∧ ((s.doSubmitRx ch).2).curEntry = s.curEntry ∧
    ((s.doSubmitRx ch).2).pf = s.pf ∧ ((s.doSubmitRx ch).2).ring = s.ring ∧
    ((s.doSubmitRx ch).2).ringData = s.ringData ∧
    ((s.doSubmitRx ch).2).radioLast = s.radioLast ∧ ((s.doSubmitRx ch).2).rdIdx = s.rdIdx ∧
    ((s.doSubmitRx ch).2).fPan = s.fPan ∧ ((s.doSubmitRx ch).2).fShort = s.fShort ∧
    ((s.doSubmitRx ch).2).fExt = s.fExt ∧ ((s.doSubmitRx ch).2).fAllow = s.fAllow ∧
    ((s.doSubmitRx ch).2).fPromisc = s.fPromisc ∧ ((s.doSubmitRx ch).2).fEnhAck = s.fEnhAck ∧
    ((s.doSubmitRx ch).2).fAckFP = s.fAckFP ∧ ((s.doSubmitRx ch).2).panCoord = s.panCoord ∧
    ((s.doSubmitRx ch).2).beaconEn = s.beaconEn ∧ ((s.doSubmitRx ch).2).dcBeacon = s.dcBeacon ∧
    ((s.doSubmitRx ch).2).dcBucket = s.dcBucket ∧ ((s.doSubmitRx ch).2).dcTotal = s.dcTotal ∧
    ((s.doSubmitRx ch).2).dcCur = s.dcCur ∧ ((s.doSubmitRx ch).2).dcMode = s.dcMode ∧
    ((s.doSubmitRx ch).2).dcRecorded = s.dcRecorded ∧ ((s.doSubmitRx ch).2).diag = s.diag ∧
    ((s.doSubmitRx ch).2).sched = s.sched ∧ ((s.doSubmitRx ch).2).busData = s.busData := by
  rw [State.doSubmitRx_eq]
  dsimp only
  split <;> simp

/-- doSubmitTx (R241). -/
@[simp] theorem State.doSubmitTx_fields (s : State) (ch : Half) (f : BitVec 4) (a0 a1 : Word) :
    ((s.doSubmitTx ch f a0 a1).2).cfg = s.cfg ∧ ((s.doSubmitTx ch f a0 a1).2).init = s.init ∧
    ((s.doSubmitTx ch f a0 a1).2).fatal = s.fatal ∧
    ((s.doSubmitTx ch f a0 a1).2).ringAllocated = s.ringAllocated ∧
    ((s.doSubmitTx ch f a0 a1).2).faults = s.faults ∧ ((s.doSubmitTx ch f a0 a1).2).arg0 = s.arg0 ∧
    ((s.doSubmitTx ch f a0 a1).2).arg1 = s.arg1 ∧ ((s.doSubmitTx ch f a0 a1).2).res = s.res ∧
    ((s.doSubmitTx ch f a0 a1).2).txPowerCur = s.txPowerCur ∧
    ((s.doSubmitTx ch f a0 a1).2).txPowerCurValid = s.txPowerCurValid ∧
    ((s.doSubmitTx ch f a0 a1).2).txPowerPend = s.txPowerPend ∧
    ((s.doSubmitTx ch f a0 a1).2).txPowerPendValid = s.txPowerPendValid ∧
    ((s.doSubmitTx ch f a0 a1).2).ackQueued = s.ackQueued ∧
    ((s.doSubmitTx ch f a0 a1).2).ackWait = s.ackWait ∧
    ((s.doSubmitTx ch f a0 a1).2).ackWaitSeq = s.ackWaitSeq ∧ ((s.doSubmitTx ch f a0 a1).2).tc = s.tc ∧
    ((s.doSubmitTx ch f a0 a1).2).rxState = s.rxState ∧
    ((s.doSubmitTx ch f a0 a1).2).frameHandle = s.frameHandle ∧
    ((s.doSubmitTx ch f a0 a1).2).curEntry = s.curEntry ∧ ((s.doSubmitTx ch f a0 a1).2).pf = s.pf ∧
    ((s.doSubmitTx ch f a0 a1).2).ring = s.ring ∧ ((s.doSubmitTx ch f a0 a1).2).ringData = s.ringData ∧
    ((s.doSubmitTx ch f a0 a1).2).radioLast = s.radioLast ∧
    ((s.doSubmitTx ch f a0 a1).2).rdIdx = s.rdIdx ∧ ((s.doSubmitTx ch f a0 a1).2).fPan = s.fPan ∧
    ((s.doSubmitTx ch f a0 a1).2).fShort = s.fShort ∧ ((s.doSubmitTx ch f a0 a1).2).fExt = s.fExt ∧
    ((s.doSubmitTx ch f a0 a1).2).fAllow = s.fAllow ∧ ((s.doSubmitTx ch f a0 a1).2).fPromisc = s.fPromisc ∧
    ((s.doSubmitTx ch f a0 a1).2).fEnhAck = s.fEnhAck ∧ ((s.doSubmitTx ch f a0 a1).2).fAckFP = s.fAckFP ∧
    ((s.doSubmitTx ch f a0 a1).2).panCoord = s.panCoord ∧
    ((s.doSubmitTx ch f a0 a1).2).beaconEn = s.beaconEn ∧
    ((s.doSubmitTx ch f a0 a1).2).dcBeacon = s.dcBeacon ∧
    ((s.doSubmitTx ch f a0 a1).2).dcBucket = s.dcBucket ∧
    ((s.doSubmitTx ch f a0 a1).2).dcTotal = s.dcTotal ∧ ((s.doSubmitTx ch f a0 a1).2).dcCur = s.dcCur ∧
    ((s.doSubmitTx ch f a0 a1).2).dcMode = s.dcMode ∧
    ((s.doSubmitTx ch f a0 a1).2).dcRecorded = s.dcRecorded ∧ ((s.doSubmitTx ch f a0 a1).2).diag = s.diag ∧
    ((s.doSubmitTx ch f a0 a1).2).sched = s.sched ∧ ((s.doSubmitTx ch f a0 a1).2).busData = s.busData := by
  rw [State.doSubmitTx_eq]
  dsimp only
  split
  · split <;> simp
  · simp

/-- doSubmitNoop() (R246). -/
@[simp] theorem State.doSubmitNoop_fields (s : State) :
    (s.doSubmitNoop.2).cfg = s.cfg ∧ (s.doSubmitNoop.2).init = s.init ∧
    (s.doSubmitNoop.2).fatal = s.fatal ∧ (s.doSubmitNoop.2).ringAllocated = s.ringAllocated ∧
    (s.doSubmitNoop.2).faults = s.faults ∧ (s.doSubmitNoop.2).arg0 = s.arg0 ∧
    (s.doSubmitNoop.2).arg1 = s.arg1 ∧ (s.doSubmitNoop.2).res = s.res ∧
    (s.doSubmitNoop.2).txPowerCur = s.txPowerCur ∧ (s.doSubmitNoop.2).txPowerCurValid = s.txPowerCurValid ∧
    (s.doSubmitNoop.2).txPowerPend = s.txPowerPend ∧
    (s.doSubmitNoop.2).txPowerPendValid = s.txPowerPendValid ∧ (s.doSubmitNoop.2).txAckReq = s.txAckReq ∧
    (s.doSubmitNoop.2).txSeq = s.txSeq ∧ (s.doSubmitNoop.2).txDur = s.txDur ∧
    (s.doSubmitNoop.2).ackQueued = s.ackQueued ∧ (s.doSubmitNoop.2).ackWait = s.ackWait ∧
    (s.doSubmitNoop.2).ackWaitSeq = s.ackWaitSeq ∧ (s.doSubmitNoop.2).tc = s.tc ∧
    (s.doSubmitNoop.2).rxState = s.rxState ∧ (s.doSubmitNoop.2).frameHandle = s.frameHandle ∧
    (s.doSubmitNoop.2).curEntry = s.curEntry ∧ (s.doSubmitNoop.2).pf = s.pf ∧
    (s.doSubmitNoop.2).ring = s.ring ∧ (s.doSubmitNoop.2).ringData = s.ringData ∧
    (s.doSubmitNoop.2).radioLast = s.radioLast ∧
    (s.doSubmitNoop.2).rdIdx = s.rdIdx ∧ (s.doSubmitNoop.2).fPan = s.fPan ∧
    (s.doSubmitNoop.2).fShort = s.fShort ∧ (s.doSubmitNoop.2).fExt = s.fExt ∧
    (s.doSubmitNoop.2).fAllow = s.fAllow ∧ (s.doSubmitNoop.2).fPromisc = s.fPromisc ∧
    (s.doSubmitNoop.2).fEnhAck = s.fEnhAck ∧ (s.doSubmitNoop.2).fAckFP = s.fAckFP ∧
    (s.doSubmitNoop.2).panCoord = s.panCoord ∧ (s.doSubmitNoop.2).beaconEn = s.beaconEn ∧
    (s.doSubmitNoop.2).dcBeacon = s.dcBeacon ∧ (s.doSubmitNoop.2).dcBucket = s.dcBucket ∧
    (s.doSubmitNoop.2).dcTotal = s.dcTotal ∧ (s.doSubmitNoop.2).dcCur = s.dcCur ∧
    (s.doSubmitNoop.2).dcMode = s.dcMode ∧ (s.doSubmitNoop.2).dcRecorded = s.dcRecorded ∧
    (s.doSubmitNoop.2).diag = s.diag ∧ (s.doSubmitNoop.2).sched = s.sched ∧
    (s.doSubmitNoop.2).busData = s.busData := by
  rw [State.doSubmitNoop_eq]
  dsimp only
  split <;> simp

/-! ## Duty cycle -/

@[simp] theorem State.notifyMode_fields (s : State) (m : DcMode) :
    (s.notifyMode m).cfg = s.cfg ∧ (s.notifyMode m).init = s.init ∧ (s.notifyMode m).fatal = s.fatal ∧
    (s.notifyMode m).ringAllocated = s.ringAllocated ∧ (s.notifyMode m).faults = s.faults ∧
    (s.notifyMode m).arg0 = s.arg0 ∧ (s.notifyMode m).arg1 = s.arg1 ∧ (s.notifyMode m).res = s.res ∧
    (s.notifyMode m).cntTotal = s.cntTotal ∧ (s.notifyMode m).cntRx = s.cntRx ∧
    (s.notifyMode m).inflight = s.inflight ∧ (s.notifyMode m).progChannel = s.progChannel ∧
    (s.notifyMode m).progValid = s.progValid ∧ (s.notifyMode m).txPowerCur = s.txPowerCur ∧
    (s.notifyMode m).txPowerCurValid = s.txPowerCurValid ∧ (s.notifyMode m).txPowerPend = s.txPowerPend ∧
    (s.notifyMode m).txPowerPendValid = s.txPowerPendValid ∧ (s.notifyMode m).desc = s.desc ∧
    (s.notifyMode m).txAckReq = s.txAckReq ∧ (s.notifyMode m).txSeq = s.txSeq ∧
    (s.notifyMode m).txDur = s.txDur ∧ (s.notifyMode m).ackQueued = s.ackQueued ∧
    (s.notifyMode m).ackWait = s.ackWait ∧ (s.notifyMode m).ackWaitSeq = s.ackWaitSeq ∧
    (s.notifyMode m).bo = s.bo ∧ (s.notifyMode m).retryEvt = s.retryEvt ∧
    (s.notifyMode m).retryArgs = s.retryArgs ∧ (s.notifyMode m).tc = s.tc ∧
    (s.notifyMode m).rxState = s.rxState ∧ (s.notifyMode m).frameHandle = s.frameHandle ∧
    (s.notifyMode m).curEntry = s.curEntry ∧ (s.notifyMode m).pf = s.pf ∧ (s.notifyMode m).ring = s.ring ∧
    (s.notifyMode m).ringData = s.ringData ∧
    (s.notifyMode m).radioLast = s.radioLast ∧ (s.notifyMode m).rdIdx = s.rdIdx ∧
    (s.notifyMode m).fPan = s.fPan ∧ (s.notifyMode m).fShort = s.fShort ∧ (s.notifyMode m).fExt = s.fExt ∧
    (s.notifyMode m).fAllow = s.fAllow ∧ (s.notifyMode m).fPromisc = s.fPromisc ∧
    (s.notifyMode m).fEnhAck = s.fEnhAck ∧ (s.notifyMode m).fAckFP = s.fAckFP ∧
    (s.notifyMode m).panCoord = s.panCoord ∧ (s.notifyMode m).beaconEn = s.beaconEn ∧
    (s.notifyMode m).dcBeacon = s.dcBeacon ∧ (s.notifyMode m).dcBucket = s.dcBucket ∧
    (s.notifyMode m).dcTotal = s.dcTotal ∧ (s.notifyMode m).dcCur = s.dcCur ∧
    (s.notifyMode m).dcMode = s.dcMode ∧ (s.notifyMode m).dcRecorded = s.dcRecorded ∧
    (s.notifyMode m).diag = s.diag ∧ (s.notifyMode m).sched = s.sched ∧ (s.notifyMode m).draws = s.draws ∧
    (s.notifyMode m).busData = s.busData := by
  unfold State.notifyMode
  split <;> simp

theorem State.notifyMode_out (s : State) (m : DcMode) :
    (s.notifyMode m).out = s.out ++ (if s.dcMode ≠ m then [.dcModeChanged s.dcMode] else []) := by
  unfold State.notifyMode
  split <;> simp

/-- dcAdd(d) (42_duty_cycle.md R392). -/
@[simp] theorem State.dcAdd_fields (s : State) (d : Word) :
    (s.dcAdd d).cfg = s.cfg ∧ (s.dcAdd d).init = s.init ∧ (s.dcAdd d).fatal = s.fatal ∧
    (s.dcAdd d).ringAllocated = s.ringAllocated ∧ (s.dcAdd d).faults = s.faults ∧
    (s.dcAdd d).arg0 = s.arg0 ∧ (s.dcAdd d).arg1 = s.arg1 ∧ (s.dcAdd d).res = s.res ∧
    (s.dcAdd d).cntTotal = s.cntTotal ∧ (s.dcAdd d).cntRx = s.cntRx ∧ (s.dcAdd d).inflight = s.inflight ∧
    (s.dcAdd d).progChannel = s.progChannel ∧ (s.dcAdd d).progValid = s.progValid ∧
    (s.dcAdd d).txPowerCur = s.txPowerCur ∧ (s.dcAdd d).txPowerCurValid = s.txPowerCurValid ∧
    (s.dcAdd d).txPowerPend = s.txPowerPend ∧ (s.dcAdd d).txPowerPendValid = s.txPowerPendValid ∧
    (s.dcAdd d).desc = s.desc ∧ (s.dcAdd d).txAckReq = s.txAckReq ∧ (s.dcAdd d).txSeq = s.txSeq ∧
    (s.dcAdd d).txDur = s.txDur ∧ (s.dcAdd d).ackQueued = s.ackQueued ∧ (s.dcAdd d).ackWait = s.ackWait ∧
    (s.dcAdd d).ackWaitSeq = s.ackWaitSeq ∧ (s.dcAdd d).bo = s.bo ∧ (s.dcAdd d).retryEvt = s.retryEvt ∧
    (s.dcAdd d).retryArgs = s.retryArgs ∧ (s.dcAdd d).tc = s.tc ∧ (s.dcAdd d).rxState = s.rxState ∧
    (s.dcAdd d).frameHandle = s.frameHandle ∧ (s.dcAdd d).curEntry = s.curEntry ∧ (s.dcAdd d).pf = s.pf ∧
    (s.dcAdd d).ring = s.ring ∧ (s.dcAdd d).ringData = s.ringData ∧
    (s.dcAdd d).radioLast = s.radioLast ∧ (s.dcAdd d).rdIdx = s.rdIdx ∧
    (s.dcAdd d).fPan = s.fPan ∧ (s.dcAdd d).fShort = s.fShort ∧ (s.dcAdd d).fExt = s.fExt ∧
    (s.dcAdd d).fAllow = s.fAllow ∧ (s.dcAdd d).fPromisc = s.fPromisc ∧ (s.dcAdd d).fEnhAck = s.fEnhAck ∧
    (s.dcAdd d).fAckFP = s.fAckFP ∧ (s.dcAdd d).panCoord = s.panCoord ∧ (s.dcAdd d).beaconEn = s.beaconEn ∧
    (s.dcAdd d).dcBeacon = s.dcBeacon ∧ (s.dcAdd d).dcCur = s.dcCur ∧ (s.dcAdd d).diag = s.diag ∧
    (s.dcAdd d).sched = s.sched ∧ (s.dcAdd d).draws = s.draws ∧ (s.dcAdd d).busData = s.busData := by
  simp [State.dcAdd]

@[simp] theorem State.dcRecordInternal_fields (s : State) (d : Word) :
    (s.dcRecordInternal d).cfg = s.cfg ∧ (s.dcRecordInternal d).init = s.init ∧
    (s.dcRecordInternal d).fatal = s.fatal ∧ (s.dcRecordInternal d).ringAllocated = s.ringAllocated ∧
    (s.dcRecordInternal d).faults = s.faults ∧ (s.dcRecordInternal d).arg0 = s.arg0 ∧
    (s.dcRecordInternal d).arg1 = s.arg1 ∧ (s.dcRecordInternal d).res = s.res ∧
    (s.dcRecordInternal d).cntTotal = s.cntTotal ∧ (s.dcRecordInternal d).cntRx = s.cntRx ∧
    (s.dcRecordInternal d).inflight = s.inflight ∧ (s.dcRecordInternal d).progChannel = s.progChannel ∧
    (s.dcRecordInternal d).progValid = s.progValid ∧ (s.dcRecordInternal d).txPowerCur = s.txPowerCur ∧
    (s.dcRecordInternal d).txPowerCurValid = s.txPowerCurValid ∧
    (s.dcRecordInternal d).txPowerPend = s.txPowerPend ∧
    (s.dcRecordInternal d).txPowerPendValid = s.txPowerPendValid ∧ (s.dcRecordInternal d).desc = s.desc ∧
    (s.dcRecordInternal d).txAckReq = s.txAckReq ∧ (s.dcRecordInternal d).txSeq = s.txSeq ∧
    (s.dcRecordInternal d).txDur = s.txDur ∧ (s.dcRecordInternal d).ackQueued = s.ackQueued ∧
    (s.dcRecordInternal d).ackWait = s.ackWait ∧ (s.dcRecordInternal d).ackWaitSeq = s.ackWaitSeq ∧
    (s.dcRecordInternal d).bo = s.bo ∧ (s.dcRecordInternal d).retryEvt = s.retryEvt ∧
    (s.dcRecordInternal d).retryArgs = s.retryArgs ∧ (s.dcRecordInternal d).tc = s.tc ∧
    (s.dcRecordInternal d).rxState = s.rxState ∧ (s.dcRecordInternal d).frameHandle = s.frameHandle ∧
    (s.dcRecordInternal d).curEntry = s.curEntry ∧ (s.dcRecordInternal d).pf = s.pf ∧
    (s.dcRecordInternal d).ring = s.ring ∧ (s.dcRecordInternal d).ringData = s.ringData ∧
    (s.dcRecordInternal d).radioLast = s.radioLast ∧
    (s.dcRecordInternal d).rdIdx = s.rdIdx ∧ (s.dcRecordInternal d).fPan = s.fPan ∧
    (s.dcRecordInternal d).fShort = s.fShort ∧ (s.dcRecordInternal d).fExt = s.fExt ∧
    (s.dcRecordInternal d).fAllow = s.fAllow ∧ (s.dcRecordInternal d).fPromisc = s.fPromisc ∧
    (s.dcRecordInternal d).fEnhAck = s.fEnhAck ∧ (s.dcRecordInternal d).fAckFP = s.fAckFP ∧
    (s.dcRecordInternal d).panCoord = s.panCoord ∧ (s.dcRecordInternal d).beaconEn = s.beaconEn ∧
    (s.dcRecordInternal d).dcBeacon = s.dcBeacon ∧ (s.dcRecordInternal d).dcCur = s.dcCur ∧
    (s.dcRecordInternal d).sched = s.sched ∧ (s.dcRecordInternal d).draws = s.draws ∧
    (s.dcRecordInternal d).busData = s.busData := by
  unfold State.dcRecordInternal
  split <;> simp

/-- The body of DC_ADVANCE (R396). -/
@[simp] theorem State.dcAdvance_fields (s : State) :
    (s.dcAdvance).cfg = s.cfg ∧ (s.dcAdvance).init = s.init ∧ (s.dcAdvance).fatal = s.fatal ∧
    (s.dcAdvance).ringAllocated = s.ringAllocated ∧ (s.dcAdvance).faults = s.faults ∧
    (s.dcAdvance).arg0 = s.arg0 ∧ (s.dcAdvance).arg1 = s.arg1 ∧ (s.dcAdvance).res = s.res ∧
    (s.dcAdvance).cntTotal = s.cntTotal ∧ (s.dcAdvance).cntRx = s.cntRx ∧
    (s.dcAdvance).inflight = s.inflight ∧ (s.dcAdvance).progChannel = s.progChannel ∧
    (s.dcAdvance).progValid = s.progValid ∧ (s.dcAdvance).txPowerCur = s.txPowerCur ∧
    (s.dcAdvance).txPowerCurValid = s.txPowerCurValid ∧ (s.dcAdvance).txPowerPend = s.txPowerPend ∧
    (s.dcAdvance).txPowerPendValid = s.txPowerPendValid ∧ (s.dcAdvance).desc = s.desc ∧
    (s.dcAdvance).txAckReq = s.txAckReq ∧ (s.dcAdvance).txSeq = s.txSeq ∧ (s.dcAdvance).txDur = s.txDur ∧
    (s.dcAdvance).ackQueued = s.ackQueued ∧ (s.dcAdvance).ackWait = s.ackWait ∧
    (s.dcAdvance).ackWaitSeq = s.ackWaitSeq ∧ (s.dcAdvance).bo = s.bo ∧
    (s.dcAdvance).retryEvt = s.retryEvt ∧ (s.dcAdvance).retryArgs = s.retryArgs ∧ (s.dcAdvance).tc = s.tc ∧
    (s.dcAdvance).rxState = s.rxState ∧ (s.dcAdvance).frameHandle = s.frameHandle ∧
    (s.dcAdvance).curEntry = s.curEntry ∧ (s.dcAdvance).pf = s.pf ∧ (s.dcAdvance).ring = s.ring ∧
    (s.dcAdvance).ringData = s.ringData ∧
    (s.dcAdvance).radioLast = s.radioLast ∧ (s.dcAdvance).rdIdx = s.rdIdx ∧ (s.dcAdvance).fPan = s.fPan ∧
    (s.dcAdvance).fShort = s.fShort ∧ (s.dcAdvance).fExt = s.fExt ∧ (s.dcAdvance).fAllow = s.fAllow ∧
    (s.dcAdvance).fPromisc = s.fPromisc ∧ (s.dcAdvance).fEnhAck = s.fEnhAck ∧
    (s.dcAdvance).fAckFP = s.fAckFP ∧ (s.dcAdvance).panCoord = s.panCoord ∧
    (s.dcAdvance).beaconEn = s.beaconEn ∧ (s.dcAdvance).dcBeacon = s.dcBeacon ∧
    (s.dcAdvance).dcRecorded = s.dcRecorded ∧ (s.dcAdvance).diag = s.diag ∧ (s.dcAdvance).sched = s.sched ∧
    (s.dcAdvance).draws = s.draws ∧ (s.dcAdvance).busData = s.busData := by
  simp [State.dcAdvance]

/-! ## Power, timer compare, terminal events -/

@[simp] theorem State.applyPendingPower_fields (s : State) :
    (s.applyPendingPower).cfg = s.cfg ∧ (s.applyPendingPower).init = s.init ∧
    (s.applyPendingPower).fatal = s.fatal ∧ (s.applyPendingPower).ringAllocated = s.ringAllocated ∧
    (s.applyPendingPower).faults = s.faults ∧ (s.applyPendingPower).arg0 = s.arg0 ∧
    (s.applyPendingPower).arg1 = s.arg1 ∧ (s.applyPendingPower).res = s.res ∧
    (s.applyPendingPower).cntTotal = s.cntTotal ∧ (s.applyPendingPower).cntRx = s.cntRx ∧
    (s.applyPendingPower).inflight = s.inflight ∧ (s.applyPendingPower).progChannel = s.progChannel ∧
    (s.applyPendingPower).progValid = s.progValid ∧ (s.applyPendingPower).txPowerPend = s.txPowerPend ∧
    (s.applyPendingPower).desc = s.desc ∧ (s.applyPendingPower).txAckReq = s.txAckReq ∧
    (s.applyPendingPower).txSeq = s.txSeq ∧ (s.applyPendingPower).txDur = s.txDur ∧
    (s.applyPendingPower).ackQueued = s.ackQueued ∧ (s.applyPendingPower).ackWait = s.ackWait ∧
    (s.applyPendingPower).ackWaitSeq = s.ackWaitSeq ∧ (s.applyPendingPower).bo = s.bo ∧
    (s.applyPendingPower).retryEvt = s.retryEvt ∧ (s.applyPendingPower).retryArgs = s.retryArgs ∧
    (s.applyPendingPower).tc = s.tc ∧ (s.applyPendingPower).rxState = s.rxState ∧
    (s.applyPendingPower).frameHandle = s.frameHandle ∧ (s.applyPendingPower).curEntry = s.curEntry ∧
    (s.applyPendingPower).pf = s.pf ∧ (s.applyPendingPower).ring = s.ring ∧
    (s.applyPendingPower).ringData = s.ringData ∧
    (s.applyPendingPower).radioLast = s.radioLast ∧ (s.applyPendingPower).rdIdx = s.rdIdx ∧
    (s.applyPendingPower).fPan = s.fPan ∧ (s.applyPendingPower).fShort = s.fShort ∧
    (s.applyPendingPower).fExt = s.fExt ∧ (s.applyPendingPower).fAllow = s.fAllow ∧
    (s.applyPendingPower).fPromisc = s.fPromisc ∧ (s.applyPendingPower).fEnhAck = s.fEnhAck ∧
    (s.applyPendingPower).fAckFP = s.fAckFP ∧ (s.applyPendingPower).panCoord = s.panCoord ∧
    (s.applyPendingPower).beaconEn = s.beaconEn ∧ (s.applyPendingPower).dcBeacon = s.dcBeacon ∧
    (s.applyPendingPower).dcBucket = s.dcBucket ∧ (s.applyPendingPower).dcTotal = s.dcTotal ∧
    (s.applyPendingPower).dcCur = s.dcCur ∧ (s.applyPendingPower).dcMode = s.dcMode ∧
    (s.applyPendingPower).dcRecorded = s.dcRecorded ∧ (s.applyPendingPower).diag = s.diag ∧
    (s.applyPendingPower).sched = s.sched ∧ (s.applyPendingPower).draws = s.draws ∧
    (s.applyPendingPower).busData = s.busData := by
  unfold State.applyPendingPower
  split <;> simp

@[simp] theorem State.disarm_fields (s : State) (ch : TcChan) :
    (s.disarm ch).cfg = s.cfg ∧ (s.disarm ch).init = s.init ∧ (s.disarm ch).fatal = s.fatal ∧
    (s.disarm ch).ringAllocated = s.ringAllocated ∧ (s.disarm ch).faults = s.faults ∧
    (s.disarm ch).arg0 = s.arg0 ∧ (s.disarm ch).arg1 = s.arg1 ∧ (s.disarm ch).res = s.res ∧
    (s.disarm ch).cntTotal = s.cntTotal ∧ (s.disarm ch).cntRx = s.cntRx ∧
    (s.disarm ch).inflight = s.inflight ∧ (s.disarm ch).progChannel = s.progChannel ∧
    (s.disarm ch).progValid = s.progValid ∧ (s.disarm ch).txPowerCur = s.txPowerCur ∧
    (s.disarm ch).txPowerCurValid = s.txPowerCurValid ∧ (s.disarm ch).txPowerPend = s.txPowerPend ∧
    (s.disarm ch).txPowerPendValid = s.txPowerPendValid ∧ (s.disarm ch).desc = s.desc ∧
    (s.disarm ch).txAckReq = s.txAckReq ∧ (s.disarm ch).txSeq = s.txSeq ∧ (s.disarm ch).txDur = s.txDur ∧
    (s.disarm ch).ackQueued = s.ackQueued ∧ (s.disarm ch).ackWait = s.ackWait ∧
    (s.disarm ch).ackWaitSeq = s.ackWaitSeq ∧ (s.disarm ch).bo = s.bo ∧
    (s.disarm ch).retryEvt = s.retryEvt ∧ (s.disarm ch).retryArgs = s.retryArgs ∧
    (s.disarm ch).rxState = s.rxState ∧ (s.disarm ch).frameHandle = s.frameHandle ∧
    (s.disarm ch).curEntry = s.curEntry ∧ (s.disarm ch).pf = s.pf ∧ (s.disarm ch).ring = s.ring ∧
    (s.disarm ch).ringData = s.ringData ∧
    (s.disarm ch).radioLast = s.radioLast ∧ (s.disarm ch).rdIdx = s.rdIdx ∧ (s.disarm ch).fPan = s.fPan ∧
    (s.disarm ch).fShort = s.fShort ∧ (s.disarm ch).fExt = s.fExt ∧ (s.disarm ch).fAllow = s.fAllow ∧
    (s.disarm ch).fPromisc = s.fPromisc ∧ (s.disarm ch).fEnhAck = s.fEnhAck ∧
    (s.disarm ch).fAckFP = s.fAckFP ∧ (s.disarm ch).panCoord = s.panCoord ∧
    (s.disarm ch).beaconEn = s.beaconEn ∧ (s.disarm ch).dcBeacon = s.dcBeacon ∧
    (s.disarm ch).dcBucket = s.dcBucket ∧ (s.disarm ch).dcTotal = s.dcTotal ∧
    (s.disarm ch).dcCur = s.dcCur ∧ (s.disarm ch).dcMode = s.dcMode ∧
    (s.disarm ch).dcRecorded = s.dcRecorded ∧ (s.disarm ch).diag = s.diag ∧ (s.disarm ch).sched = s.sched ∧
    (s.disarm ch).draws = s.draws ∧ (s.disarm ch).busData = s.busData := by
  unfold State.disarm
  split <;> simp

@[simp] theorem State.tcFired_fields (s : State) (ch : TcChan) :
    (s.tcFired ch).cfg = s.cfg ∧ (s.tcFired ch).init = s.init ∧ (s.tcFired ch).fatal = s.fatal ∧
    (s.tcFired ch).ringAllocated = s.ringAllocated ∧ (s.tcFired ch).faults = s.faults ∧
    (s.tcFired ch).arg0 = s.arg0 ∧ (s.tcFired ch).arg1 = s.arg1 ∧ (s.tcFired ch).res = s.res ∧
    (s.tcFired ch).cntTotal = s.cntTotal ∧ (s.tcFired ch).cntRx = s.cntRx ∧
    (s.tcFired ch).inflight = s.inflight ∧ (s.tcFired ch).progChannel = s.progChannel ∧
    (s.tcFired ch).progValid = s.progValid ∧ (s.tcFired ch).txPowerCur = s.txPowerCur ∧
    (s.tcFired ch).txPowerCurValid = s.txPowerCurValid ∧ (s.tcFired ch).txPowerPend = s.txPowerPend ∧
    (s.tcFired ch).txPowerPendValid = s.txPowerPendValid ∧ (s.tcFired ch).desc = s.desc ∧
    (s.tcFired ch).txAckReq = s.txAckReq ∧ (s.tcFired ch).txSeq = s.txSeq ∧
    (s.tcFired ch).txDur = s.txDur ∧ (s.tcFired ch).ackQueued = s.ackQueued ∧
    (s.tcFired ch).ackWait = s.ackWait ∧ (s.tcFired ch).ackWaitSeq = s.ackWaitSeq ∧
    (s.tcFired ch).bo = s.bo ∧ (s.tcFired ch).retryEvt = s.retryEvt ∧
    (s.tcFired ch).retryArgs = s.retryArgs ∧ (s.tcFired ch).rxState = s.rxState ∧
    (s.tcFired ch).frameHandle = s.frameHandle ∧ (s.tcFired ch).curEntry = s.curEntry ∧
    (s.tcFired ch).pf = s.pf ∧ (s.tcFired ch).ring = s.ring ∧ (s.tcFired ch).ringData = s.ringData ∧
    (s.tcFired ch).radioLast = s.radioLast ∧
    (s.tcFired ch).rdIdx = s.rdIdx ∧ (s.tcFired ch).fPan = s.fPan ∧ (s.tcFired ch).fShort = s.fShort ∧
    (s.tcFired ch).fExt = s.fExt ∧ (s.tcFired ch).fAllow = s.fAllow ∧
    (s.tcFired ch).fPromisc = s.fPromisc ∧ (s.tcFired ch).fEnhAck = s.fEnhAck ∧
    (s.tcFired ch).fAckFP = s.fAckFP ∧ (s.tcFired ch).panCoord = s.panCoord ∧
    (s.tcFired ch).beaconEn = s.beaconEn ∧ (s.tcFired ch).dcBeacon = s.dcBeacon ∧
    (s.tcFired ch).dcBucket = s.dcBucket ∧ (s.tcFired ch).dcTotal = s.dcTotal ∧
    (s.tcFired ch).dcCur = s.dcCur ∧ (s.tcFired ch).dcMode = s.dcMode ∧
    (s.tcFired ch).dcRecorded = s.dcRecorded ∧ (s.tcFired ch).sched = s.sched ∧
    (s.tcFired ch).draws = s.draws ∧ (s.tcFired ch).busData = s.busData := by
  unfold State.tcFired
  split <;> simp

@[simp] theorem State.tcFiredSlot_fields (s : State) (h : Slot) :
    (s.tcFiredSlot h).cfg = s.cfg ∧ (s.tcFiredSlot h).init = s.init ∧ (s.tcFiredSlot h).fatal = s.fatal ∧
    (s.tcFiredSlot h).ringAllocated = s.ringAllocated ∧ (s.tcFiredSlot h).faults = s.faults ∧
    (s.tcFiredSlot h).arg0 = s.arg0 ∧ (s.tcFiredSlot h).arg1 = s.arg1 ∧ (s.tcFiredSlot h).res = s.res ∧
    (s.tcFiredSlot h).cntTotal = s.cntTotal ∧ (s.tcFiredSlot h).cntRx = s.cntRx ∧
    (s.tcFiredSlot h).inflight = s.inflight ∧ (s.tcFiredSlot h).progChannel = s.progChannel ∧
    (s.tcFiredSlot h).progValid = s.progValid ∧ (s.tcFiredSlot h).txPowerCur = s.txPowerCur ∧
    (s.tcFiredSlot h).txPowerCurValid = s.txPowerCurValid ∧ (s.tcFiredSlot h).txPowerPend = s.txPowerPend ∧
    (s.tcFiredSlot h).txPowerPendValid = s.txPowerPendValid ∧ (s.tcFiredSlot h).desc = s.desc ∧
    (s.tcFiredSlot h).txAckReq = s.txAckReq ∧ (s.tcFiredSlot h).txSeq = s.txSeq ∧
    (s.tcFiredSlot h).txDur = s.txDur ∧ (s.tcFiredSlot h).ackQueued = s.ackQueued ∧
    (s.tcFiredSlot h).ackWait = s.ackWait ∧ (s.tcFiredSlot h).ackWaitSeq = s.ackWaitSeq ∧
    (s.tcFiredSlot h).bo = s.bo ∧ (s.tcFiredSlot h).retryEvt = s.retryEvt ∧
    (s.tcFiredSlot h).retryArgs = s.retryArgs ∧ (s.tcFiredSlot h).rxState = s.rxState ∧
    (s.tcFiredSlot h).frameHandle = s.frameHandle ∧ (s.tcFiredSlot h).curEntry = s.curEntry ∧
    (s.tcFiredSlot h).pf = s.pf ∧ (s.tcFiredSlot h).ring = s.ring ∧
    (s.tcFiredSlot h).ringData = s.ringData ∧
    (s.tcFiredSlot h).radioLast = s.radioLast ∧ (s.tcFiredSlot h).rdIdx = s.rdIdx ∧
    (s.tcFiredSlot h).fPan = s.fPan ∧ (s.tcFiredSlot h).fShort = s.fShort ∧
    (s.tcFiredSlot h).fExt = s.fExt ∧ (s.tcFiredSlot h).fAllow = s.fAllow ∧
    (s.tcFiredSlot h).fPromisc = s.fPromisc ∧ (s.tcFiredSlot h).fEnhAck = s.fEnhAck ∧
    (s.tcFiredSlot h).fAckFP = s.fAckFP ∧ (s.tcFiredSlot h).panCoord = s.panCoord ∧
    (s.tcFiredSlot h).beaconEn = s.beaconEn ∧ (s.tcFiredSlot h).dcBeacon = s.dcBeacon ∧
    (s.tcFiredSlot h).dcBucket = s.dcBucket ∧ (s.tcFiredSlot h).dcTotal = s.dcTotal ∧
    (s.tcFiredSlot h).dcCur = s.dcCur ∧ (s.tcFiredSlot h).dcMode = s.dcMode ∧
    (s.tcFiredSlot h).dcRecorded = s.dcRecorded ∧ (s.tcFiredSlot h).sched = s.sched ∧
    (s.tcFiredSlot h).draws = s.draws ∧ (s.tcFiredSlot h).busData = s.busData := by
  cases h <;> simp [State.tcFiredSlot]

theorem State.memberStatuses_eq (s : State) (m : List Slot) (k : EndKind) :
    s.memberStatuses m k =
      { s.drawMembers.2 with
        desc := s.drawMembers.2.desc.setStatuses m (chainStatuses m.length k s.drawMembers.1) } := rfl

@[simp] theorem State.memberStatuses_fields (s : State) (m : List Slot) (k : EndKind) :
    (s.memberStatuses m k).cfg = s.cfg ∧ (s.memberStatuses m k).init = s.init ∧
    (s.memberStatuses m k).fatal = s.fatal ∧ (s.memberStatuses m k).ringAllocated = s.ringAllocated ∧
    (s.memberStatuses m k).faults = s.faults ∧ (s.memberStatuses m k).arg0 = s.arg0 ∧
    (s.memberStatuses m k).arg1 = s.arg1 ∧ (s.memberStatuses m k).res = s.res ∧
    (s.memberStatuses m k).cntTotal = s.cntTotal ∧ (s.memberStatuses m k).cntRx = s.cntRx ∧
    (s.memberStatuses m k).inflight = s.inflight ∧ (s.memberStatuses m k).progChannel = s.progChannel ∧
    (s.memberStatuses m k).progValid = s.progValid ∧ (s.memberStatuses m k).txPowerCur = s.txPowerCur ∧
    (s.memberStatuses m k).txPowerCurValid = s.txPowerCurValid ∧
    (s.memberStatuses m k).txPowerPend = s.txPowerPend ∧
    (s.memberStatuses m k).txPowerPendValid = s.txPowerPendValid ∧
    (s.memberStatuses m k).txAckReq = s.txAckReq ∧ (s.memberStatuses m k).txSeq = s.txSeq ∧
    (s.memberStatuses m k).txDur = s.txDur ∧ (s.memberStatuses m k).ackQueued = s.ackQueued ∧
    (s.memberStatuses m k).ackWait = s.ackWait ∧ (s.memberStatuses m k).ackWaitSeq = s.ackWaitSeq ∧
    (s.memberStatuses m k).bo = s.bo ∧ (s.memberStatuses m k).retryEvt = s.retryEvt ∧
    (s.memberStatuses m k).retryArgs = s.retryArgs ∧ (s.memberStatuses m k).tc = s.tc ∧
    (s.memberStatuses m k).rxState = s.rxState ∧ (s.memberStatuses m k).frameHandle = s.frameHandle ∧
    (s.memberStatuses m k).curEntry = s.curEntry ∧ (s.memberStatuses m k).pf = s.pf ∧
    (s.memberStatuses m k).ring = s.ring ∧ (s.memberStatuses m k).ringData = s.ringData ∧
    (s.memberStatuses m k).radioLast = s.radioLast ∧
    (s.memberStatuses m k).rdIdx = s.rdIdx ∧ (s.memberStatuses m k).fPan = s.fPan ∧
    (s.memberStatuses m k).fShort = s.fShort ∧ (s.memberStatuses m k).fExt = s.fExt ∧
    (s.memberStatuses m k).fAllow = s.fAllow ∧ (s.memberStatuses m k).fPromisc = s.fPromisc ∧
    (s.memberStatuses m k).fEnhAck = s.fEnhAck ∧ (s.memberStatuses m k).fAckFP = s.fAckFP ∧
    (s.memberStatuses m k).panCoord = s.panCoord ∧ (s.memberStatuses m k).beaconEn = s.beaconEn ∧
    (s.memberStatuses m k).dcBeacon = s.dcBeacon ∧ (s.memberStatuses m k).dcBucket = s.dcBucket ∧
    (s.memberStatuses m k).dcTotal = s.dcTotal ∧ (s.memberStatuses m k).dcCur = s.dcCur ∧
    (s.memberStatuses m k).dcMode = s.dcMode ∧ (s.memberStatuses m k).dcRecorded = s.dcRecorded ∧
    (s.memberStatuses m k).diag = s.diag ∧ (s.memberStatuses m k).out = s.out ∧
    (s.memberStatuses m k).sched = s.sched ∧ (s.memberStatuses m k).busData = s.busData := by
  simp [State.memberStatuses_eq]

@[simp] theorem State.retire_fields (s : State) (p : Slot) (m : List Slot) :
    (s.retire p m).cfg = s.cfg ∧ (s.retire p m).init = s.init ∧ (s.retire p m).fatal = s.fatal ∧
    (s.retire p m).ringAllocated = s.ringAllocated ∧ (s.retire p m).faults = s.faults ∧
    (s.retire p m).arg0 = s.arg0 ∧ (s.retire p m).arg1 = s.arg1 ∧ (s.retire p m).res = s.res ∧
    (s.retire p m).progChannel = s.progChannel ∧ (s.retire p m).progValid = s.progValid ∧
    (s.retire p m).txPowerCur = s.txPowerCur ∧ (s.retire p m).txPowerCurValid = s.txPowerCurValid ∧
    (s.retire p m).txPowerPend = s.txPowerPend ∧ (s.retire p m).txPowerPendValid = s.txPowerPendValid ∧
    (s.retire p m).desc = s.desc ∧ (s.retire p m).txAckReq = s.txAckReq ∧ (s.retire p m).txSeq = s.txSeq ∧
    (s.retire p m).txDur = s.txDur ∧ (s.retire p m).ackQueued = s.ackQueued ∧
    (s.retire p m).ackWait = s.ackWait ∧ (s.retire p m).ackWaitSeq = s.ackWaitSeq ∧
    (s.retire p m).bo = s.bo ∧ (s.retire p m).retryEvt = s.retryEvt ∧
    (s.retire p m).retryArgs = s.retryArgs ∧ (s.retire p m).tc = s.tc ∧
    (s.retire p m).rxState = s.rxState ∧ (s.retire p m).frameHandle = s.frameHandle ∧
    (s.retire p m).curEntry = s.curEntry ∧ (s.retire p m).pf = s.pf ∧ (s.retire p m).ring = s.ring ∧
    (s.retire p m).ringData = s.ringData ∧
    (s.retire p m).radioLast = s.radioLast ∧ (s.retire p m).rdIdx = s.rdIdx ∧ (s.retire p m).fPan = s.fPan ∧
    (s.retire p m).fShort = s.fShort ∧ (s.retire p m).fExt = s.fExt ∧ (s.retire p m).fAllow = s.fAllow ∧
    (s.retire p m).fPromisc = s.fPromisc ∧ (s.retire p m).fEnhAck = s.fEnhAck ∧
    (s.retire p m).fAckFP = s.fAckFP ∧ (s.retire p m).panCoord = s.panCoord ∧
    (s.retire p m).beaconEn = s.beaconEn ∧ (s.retire p m).dcBeacon = s.dcBeacon ∧
    (s.retire p m).dcBucket = s.dcBucket ∧ (s.retire p m).dcTotal = s.dcTotal ∧
    (s.retire p m).dcCur = s.dcCur ∧ (s.retire p m).dcMode = s.dcMode ∧
    (s.retire p m).dcRecorded = s.dcRecorded ∧ (s.retire p m).diag = s.diag ∧
    (s.retire p m).sched = s.sched ∧ (s.retire p m).draws = s.draws ∧ (s.retire p m).busData = s.busData := by
  simp only [State.retire]
  split <;> simp

@[simp] theorem State.retire_inflight (s : State) (p : Slot) (m : List Slot) :
    (s.retire p m).inflight = s.inflight.setAll false m := by
  simp only [State.retire]
  split <;> simp

@[simp] theorem State.retire_cntTotal (s : State) (p : Slot) (m : List Slot) :
    (s.retire p m).cntTotal = s.cntTotal - 1 := by
  simp only [State.retire]
  split <;> simp

@[simp] theorem State.retire_cntRx (s : State) (p : Slot) (m : List Slot) :
    (s.retire p m).cntRx = if p = .rx then s.cntRx - 1 else s.cntRx := by
  simp only [State.retire]
  split <;> simp

theorem State.retire_out (s : State) (p : Slot) (m : List Slot) :
    (s.retire p m).out = s.out ++ (if s.cntTotal - 1 = 0 then [.powerVote .allow] else []) := by
  simp only [State.retire]
  split <;> simp_all

/-- txEnd(kind) (40_scheduler.md R265). -/
@[simp] theorem State.txEnd_fields (s : State) (k : EndKind) :
    (s.txEnd k).cfg = s.cfg ∧ (s.txEnd k).init = s.init ∧ (s.txEnd k).fatal = s.fatal ∧
    (s.txEnd k).ringAllocated = s.ringAllocated ∧ (s.txEnd k).faults = s.faults ∧
    (s.txEnd k).arg0 = s.arg0 ∧ (s.txEnd k).arg1 = s.arg1 ∧ (s.txEnd k).res = s.res ∧
    (s.txEnd k).cntTotal = s.cntTotal ∧ (s.txEnd k).cntRx = s.cntRx ∧ (s.txEnd k).inflight = s.inflight ∧
    (s.txEnd k).progChannel = s.progChannel ∧ (s.txEnd k).progValid = s.progValid ∧
    (s.txEnd k).txPowerPend = s.txPowerPend ∧ (s.txEnd k).desc = s.desc ∧
    (s.txEnd k).txAckReq = s.txAckReq ∧ (s.txEnd k).txSeq = s.txSeq ∧ (s.txEnd k).txDur = s.txDur ∧
    (s.txEnd k).ackQueued = s.ackQueued ∧ (s.txEnd k).bo = s.bo ∧ (s.txEnd k).retryEvt = s.retryEvt ∧
    (s.txEnd k).retryArgs = s.retryArgs ∧ (s.txEnd k).tc = s.tc ∧ (s.txEnd k).rxState = s.rxState ∧
    (s.txEnd k).frameHandle = s.frameHandle ∧ (s.txEnd k).curEntry = s.curEntry ∧ (s.txEnd k).pf = s.pf ∧
    (s.txEnd k).ring = s.ring ∧ (s.txEnd k).ringData = s.ringData ∧
    (s.txEnd k).radioLast = s.radioLast ∧ (s.txEnd k).rdIdx = s.rdIdx ∧
    (s.txEnd k).fPan = s.fPan ∧ (s.txEnd k).fShort = s.fShort ∧ (s.txEnd k).fExt = s.fExt ∧
    (s.txEnd k).fAllow = s.fAllow ∧ (s.txEnd k).fPromisc = s.fPromisc ∧ (s.txEnd k).fEnhAck = s.fEnhAck ∧
    (s.txEnd k).fAckFP = s.fAckFP ∧ (s.txEnd k).panCoord = s.panCoord ∧ (s.txEnd k).beaconEn = s.beaconEn ∧
    (s.txEnd k).dcBeacon = s.dcBeacon ∧ (s.txEnd k).dcCur = s.dcCur ∧ (s.txEnd k).sched = s.sched ∧
    (s.txEnd k).draws = s.draws ∧ (s.txEnd k).busData = s.busData := by
  unfold State.txEnd
  dsimp only
  split
  · split <;> simp
  · simp

/-- ackEnd(kind) (R267). -/
@[simp] theorem State.ackEnd_fields (s : State) (k : EndKind) :
    (s.ackEnd k).cfg = s.cfg ∧ (s.ackEnd k).init = s.init ∧ (s.ackEnd k).fatal = s.fatal ∧
    (s.ackEnd k).ringAllocated = s.ringAllocated ∧ (s.ackEnd k).faults = s.faults ∧
    (s.ackEnd k).arg0 = s.arg0 ∧ (s.ackEnd k).arg1 = s.arg1 ∧ (s.ackEnd k).res = s.res ∧
    (s.ackEnd k).cntTotal = s.cntTotal ∧ (s.ackEnd k).cntRx = s.cntRx ∧
    (s.ackEnd k).inflight = s.inflight ∧ (s.ackEnd k).progChannel = s.progChannel ∧
    (s.ackEnd k).progValid = s.progValid ∧ (s.ackEnd k).txPowerPend = s.txPowerPend ∧
    (s.ackEnd k).desc = s.desc ∧ (s.ackEnd k).txAckReq = s.txAckReq ∧ (s.ackEnd k).txSeq = s.txSeq ∧
    (s.ackEnd k).txDur = s.txDur ∧ (s.ackEnd k).ackWait = s.ackWait ∧
    (s.ackEnd k).ackWaitSeq = s.ackWaitSeq ∧ (s.ackEnd k).bo = s.bo ∧ (s.ackEnd k).retryEvt = s.retryEvt ∧
    (s.ackEnd k).retryArgs = s.retryArgs ∧ (s.ackEnd k).tc = s.tc ∧ (s.ackEnd k).rxState = s.rxState ∧
    (s.ackEnd k).frameHandle = s.frameHandle ∧ (s.ackEnd k).curEntry = s.curEntry ∧
    (s.ackEnd k).pf = s.pf ∧ (s.ackEnd k).ring = s.ring ∧ (s.ackEnd k).ringData = s.ringData ∧
    (s.ackEnd k).radioLast = s.radioLast ∧
    (s.ackEnd k).rdIdx = s.rdIdx ∧ (s.ackEnd k).fPan = s.fPan ∧ (s.ackEnd k).fShort = s.fShort ∧
    (s.ackEnd k).fExt = s.fExt ∧ (s.ackEnd k).fAllow = s.fAllow ∧ (s.ackEnd k).fPromisc = s.fPromisc ∧
    (s.ackEnd k).fEnhAck = s.fEnhAck ∧ (s.ackEnd k).fAckFP = s.fAckFP ∧
    (s.ackEnd k).panCoord = s.panCoord ∧ (s.ackEnd k).beaconEn = s.beaconEn ∧
    (s.ackEnd k).dcBeacon = s.dcBeacon ∧ (s.ackEnd k).dcCur = s.dcCur ∧ (s.ackEnd k).sched = s.sched ∧
    (s.ackEnd k).draws = s.draws ∧ (s.ackEnd k).busData = s.busData := by
  unfold State.ackEnd
  dsimp only
  split <;> simp

@[simp] theorem State.principalEnd_fields (s : State) (p : Slot) (k : EndKind) :
    (s.principalEnd p k).cfg = s.cfg ∧ (s.principalEnd p k).init = s.init ∧
    (s.principalEnd p k).fatal = s.fatal ∧ (s.principalEnd p k).ringAllocated = s.ringAllocated ∧
    (s.principalEnd p k).faults = s.faults ∧ (s.principalEnd p k).arg0 = s.arg0 ∧
    (s.principalEnd p k).arg1 = s.arg1 ∧ (s.principalEnd p k).res = s.res ∧
    (s.principalEnd p k).cntTotal = s.cntTotal ∧ (s.principalEnd p k).cntRx = s.cntRx ∧
    (s.principalEnd p k).inflight = s.inflight ∧ (s.principalEnd p k).progChannel = s.progChannel ∧
    (s.principalEnd p k).progValid = s.progValid ∧ (s.principalEnd p k).txPowerPend = s.txPowerPend ∧
    (s.principalEnd p k).desc = s.desc ∧ (s.principalEnd p k).txAckReq = s.txAckReq ∧
    (s.principalEnd p k).txSeq = s.txSeq ∧ (s.principalEnd p k).txDur = s.txDur ∧
    (s.principalEnd p k).bo = s.bo ∧ (s.principalEnd p k).retryEvt = s.retryEvt ∧
    (s.principalEnd p k).retryArgs = s.retryArgs ∧ (s.principalEnd p k).tc = s.tc ∧
    (s.principalEnd p k).frameHandle = s.frameHandle ∧ (s.principalEnd p k).curEntry = s.curEntry ∧
    (s.principalEnd p k).ringData = s.ringData ∧
    (s.principalEnd p k).radioLast = s.radioLast ∧ (s.principalEnd p k).fPan = s.fPan ∧
    (s.principalEnd p k).fShort = s.fShort ∧ (s.principalEnd p k).fExt = s.fExt ∧
    (s.principalEnd p k).fAllow = s.fAllow ∧ (s.principalEnd p k).fPromisc = s.fPromisc ∧
    (s.principalEnd p k).fEnhAck = s.fEnhAck ∧ (s.principalEnd p k).fAckFP = s.fAckFP ∧
    (s.principalEnd p k).panCoord = s.panCoord ∧ (s.principalEnd p k).beaconEn = s.beaconEn ∧
    (s.principalEnd p k).dcBeacon = s.dcBeacon ∧ (s.principalEnd p k).dcCur = s.dcCur ∧
    (s.principalEnd p k).sched = s.sched ∧ (s.principalEnd p k).draws = s.draws ∧
    (s.principalEnd p k).busData = s.busData := by
  cases p <;> simp [State.principalEnd]

/-- terminal(h, kind) (R260). -/
@[simp] theorem State.terminal_fields (s : State) (p : Slot) (k : EndKind) :
    (s.terminal p k).cfg = s.cfg ∧ (s.terminal p k).init = s.init ∧ (s.terminal p k).fatal = s.fatal ∧
    (s.terminal p k).ringAllocated = s.ringAllocated ∧ (s.terminal p k).faults = s.faults ∧
    (s.terminal p k).arg0 = s.arg0 ∧ (s.terminal p k).arg1 = s.arg1 ∧ (s.terminal p k).res = s.res ∧
    (s.terminal p k).progChannel = s.progChannel ∧ (s.terminal p k).progValid = s.progValid ∧
    (s.terminal p k).txPowerPend = s.txPowerPend ∧ (s.terminal p k).txAckReq = s.txAckReq ∧
    (s.terminal p k).txSeq = s.txSeq ∧ (s.terminal p k).txDur = s.txDur ∧ (s.terminal p k).bo = s.bo ∧
    (s.terminal p k).retryEvt = s.retryEvt ∧ (s.terminal p k).retryArgs = s.retryArgs ∧
    (s.terminal p k).tc = s.tc ∧ (s.terminal p k).frameHandle = s.frameHandle ∧
    (s.terminal p k).curEntry = s.curEntry ∧ (s.terminal p k).ringData = s.ringData ∧
    (s.terminal p k).radioLast = s.radioLast ∧
    (s.terminal p k).fPan = s.fPan ∧ (s.terminal p k).fShort = s.fShort ∧ (s.terminal p k).fExt = s.fExt ∧
    (s.terminal p k).fAllow = s.fAllow ∧ (s.terminal p k).fPromisc = s.fPromisc ∧
    (s.terminal p k).fEnhAck = s.fEnhAck ∧ (s.terminal p k).fAckFP = s.fAckFP ∧
    (s.terminal p k).panCoord = s.panCoord ∧ (s.terminal p k).beaconEn = s.beaconEn ∧
    (s.terminal p k).dcBeacon = s.dcBeacon ∧ (s.terminal p k).dcCur = s.dcCur ∧
    (s.terminal p k).sched = s.sched ∧ (s.terminal p k).busData = s.busData := by
  unfold State.terminal
  dsimp only
  split <;> simp

/-! ## The receive machine -/

theorem State.hdrAllocate_eq (s : State) (b0 b1 : Byte) (f : Half) :
    s.hdrAllocate b0 b1 f =
      if s.drawAllocOk.1 then { s.drawAllocOk.2 with pf := s.drawAllocOk.2.headerFrame b0 b1 f, rxState := .addr }
      else s.drawAllocOk.2.discard .allocFail := rfl

theorem State.submitAck_eq (s : State) (p q : Word) :
    s.submitAck p q =
      (s.drawAckStart.2.build .ack .absTime none .never p q s.drawAckStart.1).submit .ack .ack
        (some s.drawAckStart.1) := rfl

@[simp] theorem State.submitAck_fields (s : State) (p q : Word) :
    ((s.submitAck p q).2).cfg = s.cfg ∧ ((s.submitAck p q).2).init = s.init ∧
    ((s.submitAck p q).2).fatal = s.fatal ∧ ((s.submitAck p q).2).ringAllocated = s.ringAllocated ∧
    ((s.submitAck p q).2).faults = s.faults ∧ ((s.submitAck p q).2).arg0 = s.arg0 ∧
    ((s.submitAck p q).2).arg1 = s.arg1 ∧ ((s.submitAck p q).2).res = s.res ∧
    ((s.submitAck p q).2).cntTotal = s.cntTotal ∧ ((s.submitAck p q).2).cntRx = s.cntRx ∧
    ((s.submitAck p q).2).inflight = s.inflight ∧ ((s.submitAck p q).2).progChannel = s.progChannel ∧
    ((s.submitAck p q).2).progValid = s.progValid ∧ ((s.submitAck p q).2).txPowerCur = s.txPowerCur ∧
    ((s.submitAck p q).2).txPowerCurValid = s.txPowerCurValid ∧
    ((s.submitAck p q).2).txPowerPend = s.txPowerPend ∧
    ((s.submitAck p q).2).txPowerPendValid = s.txPowerPendValid ∧
    ((s.submitAck p q).2).txAckReq = s.txAckReq ∧ ((s.submitAck p q).2).txSeq = s.txSeq ∧
    ((s.submitAck p q).2).txDur = s.txDur ∧ ((s.submitAck p q).2).ackQueued = s.ackQueued ∧
    ((s.submitAck p q).2).ackWait = s.ackWait ∧ ((s.submitAck p q).2).ackWaitSeq = s.ackWaitSeq ∧
    ((s.submitAck p q).2).bo = s.bo ∧ ((s.submitAck p q).2).retryEvt = s.retryEvt ∧
    ((s.submitAck p q).2).retryArgs = s.retryArgs ∧ ((s.submitAck p q).2).tc = s.tc ∧
    ((s.submitAck p q).2).rxState = s.rxState ∧ ((s.submitAck p q).2).frameHandle = s.frameHandle ∧
    ((s.submitAck p q).2).curEntry = s.curEntry ∧ ((s.submitAck p q).2).pf = s.pf ∧
    ((s.submitAck p q).2).ring = s.ring ∧ ((s.submitAck p q).2).ringData = s.ringData ∧
    ((s.submitAck p q).2).radioLast = s.radioLast ∧
    ((s.submitAck p q).2).rdIdx = s.rdIdx ∧ ((s.submitAck p q).2).fPan = s.fPan ∧
    ((s.submitAck p q).2).fShort = s.fShort ∧ ((s.submitAck p q).2).fExt = s.fExt ∧
    ((s.submitAck p q).2).fAllow = s.fAllow ∧ ((s.submitAck p q).2).fPromisc = s.fPromisc ∧
    ((s.submitAck p q).2).fEnhAck = s.fEnhAck ∧ ((s.submitAck p q).2).fAckFP = s.fAckFP ∧
    ((s.submitAck p q).2).panCoord = s.panCoord ∧ ((s.submitAck p q).2).beaconEn = s.beaconEn ∧
    ((s.submitAck p q).2).dcBeacon = s.dcBeacon ∧ ((s.submitAck p q).2).dcBucket = s.dcBucket ∧
    ((s.submitAck p q).2).dcTotal = s.dcTotal ∧ ((s.submitAck p q).2).dcCur = s.dcCur ∧
    ((s.submitAck p q).2).dcMode = s.dcMode ∧ ((s.submitAck p q).2).dcRecorded = s.dcRecorded ∧
    ((s.submitAck p q).2).diag = s.diag ∧ ((s.submitAck p q).2).sched = s.sched ∧
    ((s.submitAck p q).2).busData = s.busData := by
  simp [State.submitAck_eq]

theorem State.submitImmAck_eq (s : State) :
    s.submitImmAck =
      if s.inflight.ack then s.count .ackRejected
      else
        let a := s.submitAck (ackParam s.pf.seq s.fAckFP false)
          (immAckParam s.fAckFP s.cfg.frameVersion s.pf.seq)
        if a.1 then
          { a.2.onAccepted .ack [.ack] with
            ackQueued := true
            pf := { (a.2.onAccepted .ack [.ack]).pf with ackArmed := true } }
        else a.2.count .ackRejected := rfl

theorem State.submitEnhAck_eq (s : State) :
    s.submitEnhAck =
      if s.inflight.ack then s.count .ackRejected
      else
        let d := s.drawEnhAckIEs
        let a := d.2.submitAck (ackParam d.2.pf.seq d.2.fAckFP true) (BitVec.ofNat 32 d.1.length)
        if a.1 then
          { a.2.onAccepted .ack [.ack] with
            ackQueued := true
            pf := { (a.2.onAccepted .ack [.ack]).pf with enhAckSubmitted := true } }
        else a.2.count .ackRejected := rfl

@[simp] theorem State.submitImmAck_fields (s : State) :
    (s.submitImmAck).cfg = s.cfg ∧ (s.submitImmAck).init = s.init ∧ (s.submitImmAck).fatal = s.fatal ∧
    (s.submitImmAck).ringAllocated = s.ringAllocated ∧ (s.submitImmAck).faults = s.faults ∧
    (s.submitImmAck).arg0 = s.arg0 ∧ (s.submitImmAck).arg1 = s.arg1 ∧ (s.submitImmAck).res = s.res ∧
    (s.submitImmAck).progChannel = s.progChannel ∧ (s.submitImmAck).progValid = s.progValid ∧
    (s.submitImmAck).txPowerCur = s.txPowerCur ∧ (s.submitImmAck).txPowerCurValid = s.txPowerCurValid ∧
    (s.submitImmAck).txPowerPend = s.txPowerPend ∧ (s.submitImmAck).txPowerPendValid = s.txPowerPendValid ∧
    (s.submitImmAck).txAckReq = s.txAckReq ∧ (s.submitImmAck).txSeq = s.txSeq ∧
    (s.submitImmAck).txDur = s.txDur ∧ (s.submitImmAck).ackWait = s.ackWait ∧
    (s.submitImmAck).ackWaitSeq = s.ackWaitSeq ∧ (s.submitImmAck).bo = s.bo ∧
    (s.submitImmAck).retryEvt = s.retryEvt ∧ (s.submitImmAck).retryArgs = s.retryArgs ∧
    (s.submitImmAck).tc = s.tc ∧ (s.submitImmAck).rxState = s.rxState ∧
    (s.submitImmAck).frameHandle = s.frameHandle ∧ (s.submitImmAck).curEntry = s.curEntry ∧
    (s.submitImmAck).ring = s.ring ∧ (s.submitImmAck).ringData = s.ringData ∧
    (s.submitImmAck).radioLast = s.radioLast ∧
    (s.submitImmAck).rdIdx = s.rdIdx ∧ (s.submitImmAck).fPan = s.fPan ∧
    (s.submitImmAck).fShort = s.fShort ∧ (s.submitImmAck).fExt = s.fExt ∧
    (s.submitImmAck).fAllow = s.fAllow ∧ (s.submitImmAck).fPromisc = s.fPromisc ∧
    (s.submitImmAck).fEnhAck = s.fEnhAck ∧ (s.submitImmAck).fAckFP = s.fAckFP ∧
    (s.submitImmAck).panCoord = s.panCoord ∧ (s.submitImmAck).beaconEn = s.beaconEn ∧
    (s.submitImmAck).dcBeacon = s.dcBeacon ∧ (s.submitImmAck).dcBucket = s.dcBucket ∧
    (s.submitImmAck).dcTotal = s.dcTotal ∧ (s.submitImmAck).dcCur = s.dcCur ∧
    (s.submitImmAck).dcMode = s.dcMode ∧ (s.submitImmAck).dcRecorded = s.dcRecorded ∧
    (s.submitImmAck).sched = s.sched ∧ (s.submitImmAck).busData = s.busData := by
  rw [State.submitImmAck_eq]
  dsimp only
  split
  · simp
  · split <;> simp

@[simp] theorem State.submitEnhAck_fields (s : State) :
    (s.submitEnhAck).cfg = s.cfg ∧ (s.submitEnhAck).init = s.init ∧ (s.submitEnhAck).fatal = s.fatal ∧
    (s.submitEnhAck).ringAllocated = s.ringAllocated ∧ (s.submitEnhAck).faults = s.faults ∧
    (s.submitEnhAck).arg0 = s.arg0 ∧ (s.submitEnhAck).arg1 = s.arg1 ∧ (s.submitEnhAck).res = s.res ∧
    (s.submitEnhAck).progChannel = s.progChannel ∧ (s.submitEnhAck).progValid = s.progValid ∧
    (s.submitEnhAck).txPowerCur = s.txPowerCur ∧ (s.submitEnhAck).txPowerCurValid = s.txPowerCurValid ∧
    (s.submitEnhAck).txPowerPend = s.txPowerPend ∧ (s.submitEnhAck).txPowerPendValid = s.txPowerPendValid ∧
    (s.submitEnhAck).txAckReq = s.txAckReq ∧ (s.submitEnhAck).txSeq = s.txSeq ∧
    (s.submitEnhAck).txDur = s.txDur ∧ (s.submitEnhAck).ackWait = s.ackWait ∧
    (s.submitEnhAck).ackWaitSeq = s.ackWaitSeq ∧ (s.submitEnhAck).bo = s.bo ∧
    (s.submitEnhAck).retryEvt = s.retryEvt ∧ (s.submitEnhAck).retryArgs = s.retryArgs ∧
    (s.submitEnhAck).tc = s.tc ∧ (s.submitEnhAck).rxState = s.rxState ∧
    (s.submitEnhAck).frameHandle = s.frameHandle ∧ (s.submitEnhAck).curEntry = s.curEntry ∧
    (s.submitEnhAck).ring = s.ring ∧ (s.submitEnhAck).ringData = s.ringData ∧
    (s.submitEnhAck).radioLast = s.radioLast ∧
    (s.submitEnhAck).rdIdx = s.rdIdx ∧ (s.submitEnhAck).fPan = s.fPan ∧
    (s.submitEnhAck).fShort = s.fShort ∧ (s.submitEnhAck).fExt = s.fExt ∧
    (s.submitEnhAck).fAllow = s.fAllow ∧ (s.submitEnhAck).fPromisc = s.fPromisc ∧
    (s.submitEnhAck).fEnhAck = s.fEnhAck ∧ (s.submitEnhAck).fAckFP = s.fAckFP ∧
    (s.submitEnhAck).panCoord = s.panCoord ∧ (s.submitEnhAck).beaconEn = s.beaconEn ∧
    (s.submitEnhAck).dcBeacon = s.dcBeacon ∧ (s.submitEnhAck).dcBucket = s.dcBucket ∧
    (s.submitEnhAck).dcTotal = s.dcTotal ∧ (s.submitEnhAck).dcCur = s.dcCur ∧
    (s.submitEnhAck).dcMode = s.dcMode ∧ (s.submitEnhAck).dcRecorded = s.dcRecorded ∧
    (s.submitEnhAck).sched = s.sched ∧ (s.submitEnhAck).busData = s.busData := by
  rw [State.submitEnhAck_eq]
  dsimp only
  split
  · simp
  · split <;> simp

@[simp] theorem State.hdrAllocate_fields (s : State) (b0 b1 : Byte) (f : Half) :
    (s.hdrAllocate b0 b1 f).cfg = s.cfg ∧ (s.hdrAllocate b0 b1 f).init = s.init ∧
    (s.hdrAllocate b0 b1 f).fatal = s.fatal ∧ (s.hdrAllocate b0 b1 f).ringAllocated = s.ringAllocated ∧
    (s.hdrAllocate b0 b1 f).faults = s.faults ∧ (s.hdrAllocate b0 b1 f).arg0 = s.arg0 ∧
    (s.hdrAllocate b0 b1 f).arg1 = s.arg1 ∧ (s.hdrAllocate b0 b1 f).res = s.res ∧
    (s.hdrAllocate b0 b1 f).cntTotal = s.cntTotal ∧ (s.hdrAllocate b0 b1 f).cntRx = s.cntRx ∧
    (s.hdrAllocate b0 b1 f).inflight = s.inflight ∧ (s.hdrAllocate b0 b1 f).progChannel = s.progChannel ∧
    (s.hdrAllocate b0 b1 f).progValid = s.progValid ∧ (s.hdrAllocate b0 b1 f).txPowerCur = s.txPowerCur ∧
    (s.hdrAllocate b0 b1 f).txPowerCurValid = s.txPowerCurValid ∧
    (s.hdrAllocate b0 b1 f).txPowerPend = s.txPowerPend ∧
    (s.hdrAllocate b0 b1 f).txPowerPendValid = s.txPowerPendValid ∧ (s.hdrAllocate b0 b1 f).desc = s.desc ∧
    (s.hdrAllocate b0 b1 f).txAckReq = s.txAckReq ∧ (s.hdrAllocate b0 b1 f).txSeq = s.txSeq ∧
    (s.hdrAllocate b0 b1 f).txDur = s.txDur ∧ (s.hdrAllocate b0 b1 f).ackWait = s.ackWait ∧
    (s.hdrAllocate b0 b1 f).ackWaitSeq = s.ackWaitSeq ∧ (s.hdrAllocate b0 b1 f).bo = s.bo ∧
    (s.hdrAllocate b0 b1 f).retryEvt = s.retryEvt ∧ (s.hdrAllocate b0 b1 f).retryArgs = s.retryArgs ∧
    (s.hdrAllocate b0 b1 f).tc = s.tc ∧ (s.hdrAllocate b0 b1 f).frameHandle = s.frameHandle ∧
    (s.hdrAllocate b0 b1 f).curEntry = s.curEntry ∧ (s.hdrAllocate b0 b1 f).ringData = s.ringData ∧
    (s.hdrAllocate b0 b1 f).radioLast = s.radioLast ∧
    (s.hdrAllocate b0 b1 f).fPan = s.fPan ∧ (s.hdrAllocate b0 b1 f).fShort = s.fShort ∧
    (s.hdrAllocate b0 b1 f).fExt = s.fExt ∧ (s.hdrAllocate b0 b1 f).fAllow = s.fAllow ∧
    (s.hdrAllocate b0 b1 f).fPromisc = s.fPromisc ∧ (s.hdrAllocate b0 b1 f).fEnhAck = s.fEnhAck ∧
    (s.hdrAllocate b0 b1 f).fAckFP = s.fAckFP ∧ (s.hdrAllocate b0 b1 f).panCoord = s.panCoord ∧
    (s.hdrAllocate b0 b1 f).beaconEn = s.beaconEn ∧ (s.hdrAllocate b0 b1 f).dcBeacon = s.dcBeacon ∧
    (s.hdrAllocate b0 b1 f).dcBucket = s.dcBucket ∧ (s.hdrAllocate b0 b1 f).dcTotal = s.dcTotal ∧
    (s.hdrAllocate b0 b1 f).dcCur = s.dcCur ∧ (s.hdrAllocate b0 b1 f).dcMode = s.dcMode ∧
    (s.hdrAllocate b0 b1 f).dcRecorded = s.dcRecorded ∧ (s.hdrAllocate b0 b1 f).sched = s.sched ∧
    (s.hdrAllocate b0 b1 f).busData = s.busData := by
  rw [State.hdrAllocate_eq]
  split <;> simp

/-- The HDR step (41_rx_frame_fsm.md R306). -/
@[simp] theorem State.hdrStep_fields (s : State) :
    (s.hdrStep).cfg = s.cfg ∧ (s.hdrStep).init = s.init ∧ (s.hdrStep).fatal = s.fatal ∧
    (s.hdrStep).ringAllocated = s.ringAllocated ∧ (s.hdrStep).faults = s.faults ∧
    (s.hdrStep).arg0 = s.arg0 ∧ (s.hdrStep).arg1 = s.arg1 ∧ (s.hdrStep).res = s.res ∧
    (s.hdrStep).cntTotal = s.cntTotal ∧ (s.hdrStep).cntRx = s.cntRx ∧ (s.hdrStep).inflight = s.inflight ∧
    (s.hdrStep).progChannel = s.progChannel ∧ (s.hdrStep).progValid = s.progValid ∧
    (s.hdrStep).txPowerCur = s.txPowerCur ∧ (s.hdrStep).txPowerCurValid = s.txPowerCurValid ∧
    (s.hdrStep).txPowerPend = s.txPowerPend ∧ (s.hdrStep).txPowerPendValid = s.txPowerPendValid ∧
    (s.hdrStep).desc = s.desc ∧ (s.hdrStep).txAckReq = s.txAckReq ∧ (s.hdrStep).txSeq = s.txSeq ∧
    (s.hdrStep).txDur = s.txDur ∧ (s.hdrStep).ackWait = s.ackWait ∧ (s.hdrStep).ackWaitSeq = s.ackWaitSeq ∧
    (s.hdrStep).bo = s.bo ∧ (s.hdrStep).retryEvt = s.retryEvt ∧ (s.hdrStep).retryArgs = s.retryArgs ∧
    (s.hdrStep).tc = s.tc ∧ (s.hdrStep).frameHandle = s.frameHandle ∧ (s.hdrStep).curEntry = s.curEntry ∧
    (s.hdrStep).ringData = s.ringData ∧
    (s.hdrStep).radioLast = s.radioLast ∧ (s.hdrStep).fPan = s.fPan ∧ (s.hdrStep).fShort = s.fShort ∧
    (s.hdrStep).fExt = s.fExt ∧ (s.hdrStep).fAllow = s.fAllow ∧ (s.hdrStep).fPromisc = s.fPromisc ∧
    (s.hdrStep).fEnhAck = s.fEnhAck ∧ (s.hdrStep).fAckFP = s.fAckFP ∧ (s.hdrStep).panCoord = s.panCoord ∧
    (s.hdrStep).beaconEn = s.beaconEn ∧ (s.hdrStep).dcBeacon = s.dcBeacon ∧
    (s.hdrStep).dcBucket = s.dcBucket ∧ (s.hdrStep).dcTotal = s.dcTotal ∧ (s.hdrStep).dcCur = s.dcCur ∧
    (s.hdrStep).dcMode = s.dcMode ∧ (s.hdrStep).dcRecorded = s.dcRecorded ∧ (s.hdrStep).sched = s.sched ∧
    (s.hdrStep).busData = s.busData := by
  unfold State.hdrStep
  dsimp only
  repeat' split
  all_goals simp

@[simp] theorem State.addrPass_fields (s : State) :
    (s.addrPass).cfg = s.cfg ∧ (s.addrPass).init = s.init ∧ (s.addrPass).fatal = s.fatal ∧
    (s.addrPass).ringAllocated = s.ringAllocated ∧ (s.addrPass).faults = s.faults ∧
    (s.addrPass).arg0 = s.arg0 ∧ (s.addrPass).arg1 = s.arg1 ∧ (s.addrPass).res = s.res ∧
    (s.addrPass).progChannel = s.progChannel ∧ (s.addrPass).progValid = s.progValid ∧
    (s.addrPass).txPowerCur = s.txPowerCur ∧ (s.addrPass).txPowerCurValid = s.txPowerCurValid ∧
    (s.addrPass).txPowerPend = s.txPowerPend ∧ (s.addrPass).txPowerPendValid = s.txPowerPendValid ∧
    (s.addrPass).txAckReq = s.txAckReq ∧ (s.addrPass).txSeq = s.txSeq ∧ (s.addrPass).txDur = s.txDur ∧
    (s.addrPass).ackWait = s.ackWait ∧ (s.addrPass).ackWaitSeq = s.ackWaitSeq ∧ (s.addrPass).bo = s.bo ∧
    (s.addrPass).retryEvt = s.retryEvt ∧ (s.addrPass).retryArgs = s.retryArgs ∧ (s.addrPass).tc = s.tc ∧
    (s.addrPass).frameHandle = s.frameHandle ∧ (s.addrPass).curEntry = s.curEntry ∧
    (s.addrPass).ringData = s.ringData ∧
    (s.addrPass).radioLast = s.radioLast ∧ (s.addrPass).fPan = s.fPan ∧ (s.addrPass).fShort = s.fShort ∧
    (s.addrPass).fExt = s.fExt ∧ (s.addrPass).fAllow = s.fAllow ∧ (s.addrPass).fPromisc = s.fPromisc ∧
    (s.addrPass).fEnhAck = s.fEnhAck ∧ (s.addrPass).fAckFP = s.fAckFP ∧
    (s.addrPass).panCoord = s.panCoord ∧ (s.addrPass).beaconEn = s.beaconEn ∧
    (s.addrPass).dcBeacon = s.dcBeacon ∧ (s.addrPass).dcBucket = s.dcBucket ∧
    (s.addrPass).dcTotal = s.dcTotal ∧ (s.addrPass).dcCur = s.dcCur ∧ (s.addrPass).dcMode = s.dcMode ∧
    (s.addrPass).dcRecorded = s.dcRecorded ∧ (s.addrPass).sched = s.sched ∧
    (s.addrPass).busData = s.busData := by
  unfold State.addrPass
  dsimp only
  split <;> simp

/-- The ADDR step (R313). -/
@[simp] theorem State.addrStep_fields (s : State) :
    (s.addrStep).cfg = s.cfg ∧ (s.addrStep).init = s.init ∧ (s.addrStep).fatal = s.fatal ∧
    (s.addrStep).ringAllocated = s.ringAllocated ∧ (s.addrStep).faults = s.faults ∧
    (s.addrStep).arg0 = s.arg0 ∧ (s.addrStep).arg1 = s.arg1 ∧ (s.addrStep).res = s.res ∧
    (s.addrStep).progChannel = s.progChannel ∧ (s.addrStep).progValid = s.progValid ∧
    (s.addrStep).txPowerCur = s.txPowerCur ∧ (s.addrStep).txPowerCurValid = s.txPowerCurValid ∧
    (s.addrStep).txPowerPend = s.txPowerPend ∧ (s.addrStep).txPowerPendValid = s.txPowerPendValid ∧
    (s.addrStep).txAckReq = s.txAckReq ∧ (s.addrStep).txSeq = s.txSeq ∧ (s.addrStep).txDur = s.txDur ∧
    (s.addrStep).ackWait = s.ackWait ∧ (s.addrStep).ackWaitSeq = s.ackWaitSeq ∧ (s.addrStep).bo = s.bo ∧
    (s.addrStep).retryEvt = s.retryEvt ∧ (s.addrStep).retryArgs = s.retryArgs ∧ (s.addrStep).tc = s.tc ∧
    (s.addrStep).frameHandle = s.frameHandle ∧ (s.addrStep).curEntry = s.curEntry ∧
    (s.addrStep).ringData = s.ringData ∧
    (s.addrStep).radioLast = s.radioLast ∧ (s.addrStep).fPan = s.fPan ∧ (s.addrStep).fShort = s.fShort ∧
    (s.addrStep).fExt = s.fExt ∧ (s.addrStep).fAllow = s.fAllow ∧ (s.addrStep).fPromisc = s.fPromisc ∧
    (s.addrStep).fEnhAck = s.fEnhAck ∧ (s.addrStep).fAckFP = s.fAckFP ∧
    (s.addrStep).panCoord = s.panCoord ∧ (s.addrStep).beaconEn = s.beaconEn ∧
    (s.addrStep).dcBeacon = s.dcBeacon ∧ (s.addrStep).dcBucket = s.dcBucket ∧
    (s.addrStep).dcTotal = s.dcTotal ∧ (s.addrStep).dcCur = s.dcCur ∧ (s.addrStep).dcMode = s.dcMode ∧
    (s.addrStep).dcRecorded = s.dcRecorded ∧ (s.addrStep).sched = s.sched ∧
    (s.addrStep).busData = s.busData := by
  unfold State.addrStep
  dsimp only
  repeat' split
  all_goals simp

/-- The SECHDR step (R331). -/
@[simp] theorem State.secHdrStep_fields (s : State) :
    (s.secHdrStep).cfg = s.cfg ∧ (s.secHdrStep).init = s.init ∧ (s.secHdrStep).fatal = s.fatal ∧
    (s.secHdrStep).ringAllocated = s.ringAllocated ∧ (s.secHdrStep).faults = s.faults ∧
    (s.secHdrStep).arg0 = s.arg0 ∧ (s.secHdrStep).arg1 = s.arg1 ∧ (s.secHdrStep).res = s.res ∧
    (s.secHdrStep).cntTotal = s.cntTotal ∧ (s.secHdrStep).cntRx = s.cntRx ∧
    (s.secHdrStep).inflight = s.inflight ∧ (s.secHdrStep).progChannel = s.progChannel ∧
    (s.secHdrStep).progValid = s.progValid ∧ (s.secHdrStep).txPowerCur = s.txPowerCur ∧
    (s.secHdrStep).txPowerCurValid = s.txPowerCurValid ∧ (s.secHdrStep).txPowerPend = s.txPowerPend ∧
    (s.secHdrStep).txPowerPendValid = s.txPowerPendValid ∧ (s.secHdrStep).desc = s.desc ∧
    (s.secHdrStep).txAckReq = s.txAckReq ∧ (s.secHdrStep).txSeq = s.txSeq ∧
    (s.secHdrStep).txDur = s.txDur ∧ (s.secHdrStep).ackWait = s.ackWait ∧
    (s.secHdrStep).ackWaitSeq = s.ackWaitSeq ∧ (s.secHdrStep).bo = s.bo ∧
    (s.secHdrStep).retryEvt = s.retryEvt ∧ (s.secHdrStep).retryArgs = s.retryArgs ∧
    (s.secHdrStep).tc = s.tc ∧ (s.secHdrStep).frameHandle = s.frameHandle ∧
    (s.secHdrStep).curEntry = s.curEntry ∧ (s.secHdrStep).ringData = s.ringData ∧
    (s.secHdrStep).radioLast = s.radioLast ∧
    (s.secHdrStep).fPan = s.fPan ∧ (s.secHdrStep).fShort = s.fShort ∧ (s.secHdrStep).fExt = s.fExt ∧
    (s.secHdrStep).fAllow = s.fAllow ∧ (s.secHdrStep).fPromisc = s.fPromisc ∧
    (s.secHdrStep).fEnhAck = s.fEnhAck ∧ (s.secHdrStep).fAckFP = s.fAckFP ∧
    (s.secHdrStep).panCoord = s.panCoord ∧ (s.secHdrStep).beaconEn = s.beaconEn ∧
    (s.secHdrStep).dcBeacon = s.dcBeacon ∧ (s.secHdrStep).dcBucket = s.dcBucket ∧
    (s.secHdrStep).dcTotal = s.dcTotal ∧ (s.secHdrStep).dcCur = s.dcCur ∧
    (s.secHdrStep).dcMode = s.dcMode ∧ (s.secHdrStep).dcRecorded = s.dcRecorded ∧
    (s.secHdrStep).sched = s.sched ∧ (s.secHdrStep).draws = s.draws ∧ (s.secHdrStep).busData = s.busData := by
  unfold State.secHdrStep
  dsimp only
  repeat' split
  all_goals simp

/-- The PAYLOAD step (R340). -/
@[simp] theorem State.payloadStep_fields (s : State) :
    (s.payloadStep).cfg = s.cfg ∧ (s.payloadStep).init = s.init ∧ (s.payloadStep).fatal = s.fatal ∧
    (s.payloadStep).ringAllocated = s.ringAllocated ∧ (s.payloadStep).faults = s.faults ∧
    (s.payloadStep).arg0 = s.arg0 ∧ (s.payloadStep).arg1 = s.arg1 ∧ (s.payloadStep).res = s.res ∧
    (s.payloadStep).cntTotal = s.cntTotal ∧ (s.payloadStep).cntRx = s.cntRx ∧
    (s.payloadStep).inflight = s.inflight ∧ (s.payloadStep).progChannel = s.progChannel ∧
    (s.payloadStep).progValid = s.progValid ∧ (s.payloadStep).txPowerCur = s.txPowerCur ∧
    (s.payloadStep).txPowerCurValid = s.txPowerCurValid ∧ (s.payloadStep).txPowerPend = s.txPowerPend ∧
    (s.payloadStep).txPowerPendValid = s.txPowerPendValid ∧ (s.payloadStep).desc = s.desc ∧
    (s.payloadStep).txAckReq = s.txAckReq ∧ (s.payloadStep).txSeq = s.txSeq ∧
    (s.payloadStep).txDur = s.txDur ∧ (s.payloadStep).ackWait = s.ackWait ∧
    (s.payloadStep).ackWaitSeq = s.ackWaitSeq ∧ (s.payloadStep).bo = s.bo ∧
    (s.payloadStep).retryEvt = s.retryEvt ∧ (s.payloadStep).retryArgs = s.retryArgs ∧
    (s.payloadStep).tc = s.tc ∧ (s.payloadStep).frameHandle = s.frameHandle ∧
    (s.payloadStep).curEntry = s.curEntry ∧ (s.payloadStep).ringData = s.ringData ∧
    (s.payloadStep).radioLast = s.radioLast ∧
    (s.payloadStep).fPan = s.fPan ∧ (s.payloadStep).fShort = s.fShort ∧ (s.payloadStep).fExt = s.fExt ∧
    (s.payloadStep).fAllow = s.fAllow ∧ (s.payloadStep).fPromisc = s.fPromisc ∧
    (s.payloadStep).fEnhAck = s.fEnhAck ∧ (s.payloadStep).fAckFP = s.fAckFP ∧
    (s.payloadStep).panCoord = s.panCoord ∧ (s.payloadStep).beaconEn = s.beaconEn ∧
    (s.payloadStep).dcBeacon = s.dcBeacon ∧ (s.payloadStep).dcBucket = s.dcBucket ∧
    (s.payloadStep).dcTotal = s.dcTotal ∧ (s.payloadStep).dcCur = s.dcCur ∧
    (s.payloadStep).dcMode = s.dcMode ∧ (s.payloadStep).dcRecorded = s.dcRecorded ∧
    (s.payloadStep).sched = s.sched ∧ (s.payloadStep).draws = s.draws ∧ (s.payloadStep).busData = s.busData := by
  unfold State.payloadStep
  split <;> simp

@[simp] theorem State.stageStep_fields (s : State) :
    (s.stageStep).cfg = s.cfg ∧ (s.stageStep).init = s.init ∧ (s.stageStep).fatal = s.fatal ∧
    (s.stageStep).ringAllocated = s.ringAllocated ∧ (s.stageStep).faults = s.faults ∧
    (s.stageStep).arg0 = s.arg0 ∧ (s.stageStep).arg1 = s.arg1 ∧ (s.stageStep).res = s.res ∧
    (s.stageStep).progChannel = s.progChannel ∧ (s.stageStep).progValid = s.progValid ∧
    (s.stageStep).txPowerCur = s.txPowerCur ∧ (s.stageStep).txPowerCurValid = s.txPowerCurValid ∧
    (s.stageStep).txPowerPend = s.txPowerPend ∧ (s.stageStep).txPowerPendValid = s.txPowerPendValid ∧
    (s.stageStep).txAckReq = s.txAckReq ∧ (s.stageStep).txSeq = s.txSeq ∧ (s.stageStep).txDur = s.txDur ∧
    (s.stageStep).ackWait = s.ackWait ∧ (s.stageStep).ackWaitSeq = s.ackWaitSeq ∧ (s.stageStep).bo = s.bo ∧
    (s.stageStep).retryEvt = s.retryEvt ∧ (s.stageStep).retryArgs = s.retryArgs ∧ (s.stageStep).tc = s.tc ∧
    (s.stageStep).frameHandle = s.frameHandle ∧ (s.stageStep).curEntry = s.curEntry ∧
    (s.stageStep).ringData = s.ringData ∧
    (s.stageStep).radioLast = s.radioLast ∧ (s.stageStep).fPan = s.fPan ∧ (s.stageStep).fShort = s.fShort ∧
    (s.stageStep).fExt = s.fExt ∧ (s.stageStep).fAllow = s.fAllow ∧ (s.stageStep).fPromisc = s.fPromisc ∧
    (s.stageStep).fEnhAck = s.fEnhAck ∧ (s.stageStep).fAckFP = s.fAckFP ∧
    (s.stageStep).panCoord = s.panCoord ∧ (s.stageStep).beaconEn = s.beaconEn ∧
    (s.stageStep).dcBeacon = s.dcBeacon ∧ (s.stageStep).dcBucket = s.dcBucket ∧
    (s.stageStep).dcTotal = s.dcTotal ∧ (s.stageStep).dcCur = s.dcCur ∧ (s.stageStep).dcMode = s.dcMode ∧
    (s.stageStep).dcRecorded = s.dcRecorded ∧ (s.stageStep).sched = s.sched ∧
    (s.stageStep).busData = s.busData := by
  unfold State.stageStep
  split <;> simp

@[simp] theorem State.runDueStages_fields (s : State) :
    (s.runDueStages).cfg = s.cfg ∧ (s.runDueStages).init = s.init ∧ (s.runDueStages).fatal = s.fatal ∧
    (s.runDueStages).ringAllocated = s.ringAllocated ∧ (s.runDueStages).faults = s.faults ∧
    (s.runDueStages).arg0 = s.arg0 ∧ (s.runDueStages).arg1 = s.arg1 ∧ (s.runDueStages).res = s.res ∧
    (s.runDueStages).progChannel = s.progChannel ∧ (s.runDueStages).progValid = s.progValid ∧
    (s.runDueStages).txPowerCur = s.txPowerCur ∧ (s.runDueStages).txPowerCurValid = s.txPowerCurValid ∧
    (s.runDueStages).txPowerPend = s.txPowerPend ∧ (s.runDueStages).txPowerPendValid = s.txPowerPendValid ∧
    (s.runDueStages).txAckReq = s.txAckReq ∧ (s.runDueStages).txSeq = s.txSeq ∧
    (s.runDueStages).txDur = s.txDur ∧ (s.runDueStages).ackWait = s.ackWait ∧
    (s.runDueStages).ackWaitSeq = s.ackWaitSeq ∧ (s.runDueStages).bo = s.bo ∧
    (s.runDueStages).retryEvt = s.retryEvt ∧ (s.runDueStages).retryArgs = s.retryArgs ∧
    (s.runDueStages).tc = s.tc ∧ (s.runDueStages).frameHandle = s.frameHandle ∧
    (s.runDueStages).curEntry = s.curEntry ∧ (s.runDueStages).ringData = s.ringData ∧
    (s.runDueStages).radioLast = s.radioLast ∧
    (s.runDueStages).fPan = s.fPan ∧ (s.runDueStages).fShort = s.fShort ∧ (s.runDueStages).fExt = s.fExt ∧
    (s.runDueStages).fAllow = s.fAllow ∧ (s.runDueStages).fPromisc = s.fPromisc ∧
    (s.runDueStages).fEnhAck = s.fEnhAck ∧ (s.runDueStages).fAckFP = s.fAckFP ∧
    (s.runDueStages).panCoord = s.panCoord ∧ (s.runDueStages).beaconEn = s.beaconEn ∧
    (s.runDueStages).dcBeacon = s.dcBeacon ∧ (s.runDueStages).dcBucket = s.dcBucket ∧
    (s.runDueStages).dcTotal = s.dcTotal ∧ (s.runDueStages).dcCur = s.dcCur ∧
    (s.runDueStages).dcMode = s.dcMode ∧ (s.runDueStages).dcRecorded = s.dcRecorded ∧
    (s.runDueStages).sched = s.sched ∧ (s.runDueStages).busData = s.busData := by
  simp [State.runDueStages]

@[simp] theorem State.finishFrame_fields (s : State) :
    (s.finishFrame).cfg = s.cfg ∧ (s.finishFrame).init = s.init ∧ (s.finishFrame).fatal = s.fatal ∧
    (s.finishFrame).ringAllocated = s.ringAllocated ∧ (s.finishFrame).faults = s.faults ∧
    (s.finishFrame).arg0 = s.arg0 ∧ (s.finishFrame).arg1 = s.arg1 ∧ (s.finishFrame).res = s.res ∧
    (s.finishFrame).cntTotal = s.cntTotal ∧ (s.finishFrame).cntRx = s.cntRx ∧
    (s.finishFrame).inflight = s.inflight ∧ (s.finishFrame).progChannel = s.progChannel ∧
    (s.finishFrame).progValid = s.progValid ∧ (s.finishFrame).txPowerCur = s.txPowerCur ∧
    (s.finishFrame).txPowerCurValid = s.txPowerCurValid ∧ (s.finishFrame).txPowerPend = s.txPowerPend ∧
    (s.finishFrame).txPowerPendValid = s.txPowerPendValid ∧ (s.finishFrame).desc = s.desc ∧
    (s.finishFrame).txAckReq = s.txAckReq ∧ (s.finishFrame).txSeq = s.txSeq ∧
    (s.finishFrame).txDur = s.txDur ∧ (s.finishFrame).ackQueued = s.ackQueued ∧
    (s.finishFrame).ackWait = s.ackWait ∧ (s.finishFrame).ackWaitSeq = s.ackWaitSeq ∧
    (s.finishFrame).bo = s.bo ∧ (s.finishFrame).retryEvt = s.retryEvt ∧
    (s.finishFrame).retryArgs = s.retryArgs ∧ (s.finishFrame).tc = s.tc ∧
    (s.finishFrame).frameHandle = s.frameHandle ∧ (s.finishFrame).curEntry = s.curEntry ∧
    (s.finishFrame).ringData = s.ringData ∧
    (s.finishFrame).radioLast = s.radioLast ∧ (s.finishFrame).fPan = s.fPan ∧
    (s.finishFrame).fShort = s.fShort ∧ (s.finishFrame).fExt = s.fExt ∧ (s.finishFrame).fAllow = s.fAllow ∧
    (s.finishFrame).fPromisc = s.fPromisc ∧ (s.finishFrame).fEnhAck = s.fEnhAck ∧
    (s.finishFrame).fAckFP = s.fAckFP ∧ (s.finishFrame).panCoord = s.panCoord ∧
    (s.finishFrame).beaconEn = s.beaconEn ∧ (s.finishFrame).dcBeacon = s.dcBeacon ∧
    (s.finishFrame).dcBucket = s.dcBucket ∧ (s.finishFrame).dcTotal = s.dcTotal ∧
    (s.finishFrame).dcCur = s.dcCur ∧ (s.finishFrame).dcMode = s.dcMode ∧
    (s.finishFrame).dcRecorded = s.dcRecorded ∧ (s.finishFrame).diag = s.diag ∧
    (s.finishFrame).sched = s.sched ∧ (s.finishFrame).draws = s.draws ∧ (s.finishFrame).busData = s.busData := by
  simp [State.finishFrame]

@[simp] theorem State.deliver_fields (s : State) :
    (s.deliver).cfg = s.cfg ∧ (s.deliver).init = s.init ∧ (s.deliver).fatal = s.fatal ∧
    (s.deliver).ringAllocated = s.ringAllocated ∧ (s.deliver).faults = s.faults ∧
    (s.deliver).arg0 = s.arg0 ∧ (s.deliver).arg1 = s.arg1 ∧ (s.deliver).res = s.res ∧
    (s.deliver).cntTotal = s.cntTotal ∧ (s.deliver).cntRx = s.cntRx ∧ (s.deliver).inflight = s.inflight ∧
    (s.deliver).progChannel = s.progChannel ∧ (s.deliver).progValid = s.progValid ∧
    (s.deliver).txPowerCur = s.txPowerCur ∧ (s.deliver).txPowerCurValid = s.txPowerCurValid ∧
    (s.deliver).txPowerPend = s.txPowerPend ∧ (s.deliver).txPowerPendValid = s.txPowerPendValid ∧
    (s.deliver).desc = s.desc ∧ (s.deliver).txAckReq = s.txAckReq ∧ (s.deliver).txSeq = s.txSeq ∧
    (s.deliver).txDur = s.txDur ∧ (s.deliver).ackQueued = s.ackQueued ∧ (s.deliver).ackWait = s.ackWait ∧
    (s.deliver).ackWaitSeq = s.ackWaitSeq ∧ (s.deliver).bo = s.bo ∧ (s.deliver).retryEvt = s.retryEvt ∧
    (s.deliver).retryArgs = s.retryArgs ∧ (s.deliver).tc = s.tc ∧ (s.deliver).frameHandle = s.frameHandle ∧
    (s.deliver).curEntry = s.curEntry ∧ (s.deliver).ringData = s.ringData ∧
    (s.deliver).radioLast = s.radioLast ∧ (s.deliver).fPan = s.fPan ∧
    (s.deliver).fShort = s.fShort ∧ (s.deliver).fExt = s.fExt ∧ (s.deliver).fAllow = s.fAllow ∧
    (s.deliver).fPromisc = s.fPromisc ∧ (s.deliver).fEnhAck = s.fEnhAck ∧ (s.deliver).fAckFP = s.fAckFP ∧
    (s.deliver).panCoord = s.panCoord ∧ (s.deliver).beaconEn = s.beaconEn ∧
    (s.deliver).dcBeacon = s.dcBeacon ∧ (s.deliver).dcBucket = s.dcBucket ∧
    (s.deliver).dcTotal = s.dcTotal ∧ (s.deliver).dcCur = s.dcCur ∧ (s.deliver).dcMode = s.dcMode ∧
    (s.deliver).dcRecorded = s.dcRecorded ∧ (s.deliver).diag = s.diag ∧ (s.deliver).sched = s.sched ∧
    (s.deliver).draws = s.draws ∧ (s.deliver).busData = s.busData := by
  simp [State.deliver]

@[simp] theorem State.ackConsume_fields (s : State) :
    (s.ackConsume).cfg = s.cfg ∧ (s.ackConsume).init = s.init ∧ (s.ackConsume).fatal = s.fatal ∧
    (s.ackConsume).ringAllocated = s.ringAllocated ∧ (s.ackConsume).faults = s.faults ∧
    (s.ackConsume).arg0 = s.arg0 ∧ (s.ackConsume).arg1 = s.arg1 ∧ (s.ackConsume).res = s.res ∧
    (s.ackConsume).cntTotal = s.cntTotal ∧ (s.ackConsume).cntRx = s.cntRx ∧
    (s.ackConsume).inflight = s.inflight ∧ (s.ackConsume).progChannel = s.progChannel ∧
    (s.ackConsume).progValid = s.progValid ∧ (s.ackConsume).txPowerCur = s.txPowerCur ∧
    (s.ackConsume).txPowerCurValid = s.txPowerCurValid ∧ (s.ackConsume).txPowerPend = s.txPowerPend ∧
    (s.ackConsume).txPowerPendValid = s.txPowerPendValid ∧ (s.ackConsume).desc = s.desc ∧
    (s.ackConsume).txAckReq = s.txAckReq ∧ (s.ackConsume).txSeq = s.txSeq ∧
    (s.ackConsume).txDur = s.txDur ∧ (s.ackConsume).ackWaitSeq = s.ackWaitSeq ∧ (s.ackConsume).bo = s.bo ∧
    (s.ackConsume).retryEvt = s.retryEvt ∧ (s.ackConsume).retryArgs = s.retryArgs ∧
    (s.ackConsume).tc = s.tc ∧ (s.ackConsume).frameHandle = s.frameHandle ∧
    (s.ackConsume).curEntry = s.curEntry ∧ (s.ackConsume).ringData = s.ringData ∧
    (s.ackConsume).radioLast = s.radioLast ∧
    (s.ackConsume).fPan = s.fPan ∧ (s.ackConsume).fShort = s.fShort ∧ (s.ackConsume).fExt = s.fExt ∧
    (s.ackConsume).fAllow = s.fAllow ∧ (s.ackConsume).fPromisc = s.fPromisc ∧
    (s.ackConsume).fEnhAck = s.fEnhAck ∧ (s.ackConsume).fAckFP = s.fAckFP ∧
    (s.ackConsume).panCoord = s.panCoord ∧ (s.ackConsume).beaconEn = s.beaconEn ∧
    (s.ackConsume).dcBeacon = s.dcBeacon ∧ (s.ackConsume).dcBucket = s.dcBucket ∧
    (s.ackConsume).dcTotal = s.dcTotal ∧ (s.ackConsume).dcCur = s.dcCur ∧
    (s.ackConsume).dcMode = s.dcMode ∧ (s.ackConsume).dcRecorded = s.dcRecorded ∧
    (s.ackConsume).sched = s.sched ∧ (s.ackConsume).draws = s.draws ∧ (s.ackConsume).busData = s.busData := by
  unfold State.ackConsume
  split <;> simp

@[simp] theorem State.ackAndDeliver_fields (s : State) :
    (s.ackAndDeliver).cfg = s.cfg ∧ (s.ackAndDeliver).init = s.init ∧ (s.ackAndDeliver).fatal = s.fatal ∧
    (s.ackAndDeliver).ringAllocated = s.ringAllocated ∧ (s.ackAndDeliver).faults = s.faults ∧
    (s.ackAndDeliver).arg0 = s.arg0 ∧ (s.ackAndDeliver).arg1 = s.arg1 ∧ (s.ackAndDeliver).res = s.res ∧
    (s.ackAndDeliver).progChannel = s.progChannel ∧ (s.ackAndDeliver).progValid = s.progValid ∧
    (s.ackAndDeliver).txPowerCur = s.txPowerCur ∧ (s.ackAndDeliver).txPowerCurValid = s.txPowerCurValid ∧
    (s.ackAndDeliver).txPowerPend = s.txPowerPend ∧
    (s.ackAndDeliver).txPowerPendValid = s.txPowerPendValid ∧ (s.ackAndDeliver).txAckReq = s.txAckReq ∧
    (s.ackAndDeliver).txSeq = s.txSeq ∧ (s.ackAndDeliver).txDur = s.txDur ∧
    (s.ackAndDeliver).ackWait = s.ackWait ∧ (s.ackAndDeliver).ackWaitSeq = s.ackWaitSeq ∧
    (s.ackAndDeliver).bo = s.bo ∧ (s.ackAndDeliver).retryEvt = s.retryEvt ∧
    (s.ackAndDeliver).retryArgs = s.retryArgs ∧ (s.ackAndDeliver).tc = s.tc ∧
    (s.ackAndDeliver).frameHandle = s.frameHandle ∧ (s.ackAndDeliver).curEntry = s.curEntry ∧
    (s.ackAndDeliver).ringData = s.ringData ∧
    (s.ackAndDeliver).radioLast = s.radioLast ∧ (s.ackAndDeliver).fPan = s.fPan ∧
    (s.ackAndDeliver).fShort = s.fShort ∧ (s.ackAndDeliver).fExt = s.fExt ∧
    (s.ackAndDeliver).fAllow = s.fAllow ∧ (s.ackAndDeliver).fPromisc = s.fPromisc ∧
    (s.ackAndDeliver).fEnhAck = s.fEnhAck ∧ (s.ackAndDeliver).fAckFP = s.fAckFP ∧
    (s.ackAndDeliver).panCoord = s.panCoord ∧ (s.ackAndDeliver).beaconEn = s.beaconEn ∧
    (s.ackAndDeliver).dcBeacon = s.dcBeacon ∧ (s.ackAndDeliver).dcBucket = s.dcBucket ∧
    (s.ackAndDeliver).dcTotal = s.dcTotal ∧ (s.ackAndDeliver).dcCur = s.dcCur ∧
    (s.ackAndDeliver).dcMode = s.dcMode ∧ (s.ackAndDeliver).dcRecorded = s.dcRecorded ∧
    (s.ackAndDeliver).sched = s.sched ∧ (s.ackAndDeliver).busData = s.busData := by
  unfold State.ackAndDeliver
  split <;> simp

@[simp] theorem State.dispatchFrame_fields (s : State) :
    (s.dispatchFrame).cfg = s.cfg ∧ (s.dispatchFrame).init = s.init ∧ (s.dispatchFrame).fatal = s.fatal ∧
    (s.dispatchFrame).ringAllocated = s.ringAllocated ∧ (s.dispatchFrame).faults = s.faults ∧
    (s.dispatchFrame).arg0 = s.arg0 ∧ (s.dispatchFrame).arg1 = s.arg1 ∧ (s.dispatchFrame).res = s.res ∧
    (s.dispatchFrame).progChannel = s.progChannel ∧ (s.dispatchFrame).progValid = s.progValid ∧
    (s.dispatchFrame).txPowerCur = s.txPowerCur ∧ (s.dispatchFrame).txPowerCurValid = s.txPowerCurValid ∧
    (s.dispatchFrame).txPowerPend = s.txPowerPend ∧
    (s.dispatchFrame).txPowerPendValid = s.txPowerPendValid ∧ (s.dispatchFrame).txAckReq = s.txAckReq ∧
    (s.dispatchFrame).txSeq = s.txSeq ∧ (s.dispatchFrame).txDur = s.txDur ∧
    (s.dispatchFrame).ackWait = s.ackWait ∧ (s.dispatchFrame).ackWaitSeq = s.ackWaitSeq ∧
    (s.dispatchFrame).bo = s.bo ∧ (s.dispatchFrame).retryEvt = s.retryEvt ∧
    (s.dispatchFrame).retryArgs = s.retryArgs ∧ (s.dispatchFrame).tc = s.tc ∧
    (s.dispatchFrame).frameHandle = s.frameHandle ∧ (s.dispatchFrame).curEntry = s.curEntry ∧
    (s.dispatchFrame).ringData = s.ringData ∧
    (s.dispatchFrame).radioLast = s.radioLast ∧ (s.dispatchFrame).fPan = s.fPan ∧
    (s.dispatchFrame).fShort = s.fShort ∧ (s.dispatchFrame).fExt = s.fExt ∧
    (s.dispatchFrame).fAllow = s.fAllow ∧ (s.dispatchFrame).fPromisc = s.fPromisc ∧
    (s.dispatchFrame).fEnhAck = s.fEnhAck ∧ (s.dispatchFrame).fAckFP = s.fAckFP ∧
    (s.dispatchFrame).panCoord = s.panCoord ∧ (s.dispatchFrame).beaconEn = s.beaconEn ∧
    (s.dispatchFrame).dcBeacon = s.dcBeacon ∧ (s.dispatchFrame).dcBucket = s.dcBucket ∧
    (s.dispatchFrame).dcTotal = s.dcTotal ∧ (s.dispatchFrame).dcCur = s.dcCur ∧
    (s.dispatchFrame).dcMode = s.dcMode ∧ (s.dispatchFrame).dcRecorded = s.dcRecorded ∧
    (s.dispatchFrame).sched = s.sched ∧ (s.dispatchFrame).busData = s.busData := by
  unfold State.dispatchFrame
  repeat' split
  all_goals simp

@[simp] theorem State.trailerAndDispatch_fields (s : State) :
    (s.trailerAndDispatch).cfg = s.cfg ∧ (s.trailerAndDispatch).init = s.init ∧
    (s.trailerAndDispatch).fatal = s.fatal ∧ (s.trailerAndDispatch).ringAllocated = s.ringAllocated ∧
    (s.trailerAndDispatch).faults = s.faults ∧ (s.trailerAndDispatch).arg0 = s.arg0 ∧
    (s.trailerAndDispatch).arg1 = s.arg1 ∧ (s.trailerAndDispatch).res = s.res ∧
    (s.trailerAndDispatch).progChannel = s.progChannel ∧ (s.trailerAndDispatch).progValid = s.progValid ∧
    (s.trailerAndDispatch).txPowerCur = s.txPowerCur ∧
    (s.trailerAndDispatch).txPowerCurValid = s.txPowerCurValid ∧
    (s.trailerAndDispatch).txPowerPend = s.txPowerPend ∧
    (s.trailerAndDispatch).txPowerPendValid = s.txPowerPendValid ∧
    (s.trailerAndDispatch).txAckReq = s.txAckReq ∧ (s.trailerAndDispatch).txSeq = s.txSeq ∧
    (s.trailerAndDispatch).txDur = s.txDur ∧ (s.trailerAndDispatch).ackWaitSeq = s.ackWaitSeq ∧
    (s.trailerAndDispatch).bo = s.bo ∧ (s.trailerAndDispatch).retryEvt = s.retryEvt ∧
    (s.trailerAndDispatch).retryArgs = s.retryArgs ∧ (s.trailerAndDispatch).tc = s.tc ∧
    (s.trailerAndDispatch).frameHandle = s.frameHandle ∧ (s.trailerAndDispatch).curEntry = s.curEntry ∧
    (s.trailerAndDispatch).ringData = s.ringData ∧
    (s.trailerAndDispatch).radioLast = s.radioLast ∧ (s.trailerAndDispatch).fPan = s.fPan ∧
    (s.trailerAndDispatch).fShort = s.fShort ∧ (s.trailerAndDispatch).fExt = s.fExt ∧
    (s.trailerAndDispatch).fAllow = s.fAllow ∧ (s.trailerAndDispatch).fPromisc = s.fPromisc ∧
    (s.trailerAndDispatch).fEnhAck = s.fEnhAck ∧ (s.trailerAndDispatch).fAckFP = s.fAckFP ∧
    (s.trailerAndDispatch).panCoord = s.panCoord ∧ (s.trailerAndDispatch).beaconEn = s.beaconEn ∧
    (s.trailerAndDispatch).dcBeacon = s.dcBeacon ∧ (s.trailerAndDispatch).dcBucket = s.dcBucket ∧
    (s.trailerAndDispatch).dcTotal = s.dcTotal ∧ (s.trailerAndDispatch).dcCur = s.dcCur ∧
    (s.trailerAndDispatch).dcMode = s.dcMode ∧ (s.trailerAndDispatch).dcRecorded = s.dcRecorded ∧
    (s.trailerAndDispatch).sched = s.sched ∧ (s.trailerAndDispatch).busData = s.busData := by
  unfold State.trailerAndDispatch
  dsimp only
  repeat' split
  all_goals simp

@[simp] theorem State.endFrame_fields (s : State) :
    (s.endFrame).cfg = s.cfg ∧ (s.endFrame).init = s.init ∧ (s.endFrame).fatal = s.fatal ∧
    (s.endFrame).ringAllocated = s.ringAllocated ∧ (s.endFrame).faults = s.faults ∧
    (s.endFrame).arg0 = s.arg0 ∧ (s.endFrame).arg1 = s.arg1 ∧ (s.endFrame).res = s.res ∧
    (s.endFrame).progChannel = s.progChannel ∧ (s.endFrame).progValid = s.progValid ∧
    (s.endFrame).txPowerCur = s.txPowerCur ∧ (s.endFrame).txPowerCurValid = s.txPowerCurValid ∧
    (s.endFrame).txPowerPend = s.txPowerPend ∧ (s.endFrame).txPowerPendValid = s.txPowerPendValid ∧
    (s.endFrame).txAckReq = s.txAckReq ∧ (s.endFrame).txSeq = s.txSeq ∧ (s.endFrame).txDur = s.txDur ∧
    (s.endFrame).ackWaitSeq = s.ackWaitSeq ∧ (s.endFrame).bo = s.bo ∧ (s.endFrame).retryEvt = s.retryEvt ∧
    (s.endFrame).retryArgs = s.retryArgs ∧ (s.endFrame).tc = s.tc ∧
    (s.endFrame).frameHandle = s.frameHandle ∧ (s.endFrame).curEntry = s.curEntry ∧
    (s.endFrame).ringData = s.ringData ∧
    (s.endFrame).radioLast = s.radioLast ∧ (s.endFrame).fPan = s.fPan ∧ (s.endFrame).fShort = s.fShort ∧
    (s.endFrame).fExt = s.fExt ∧ (s.endFrame).fAllow = s.fAllow ∧ (s.endFrame).fPromisc = s.fPromisc ∧
    (s.endFrame).fEnhAck = s.fEnhAck ∧ (s.endFrame).fAckFP = s.fAckFP ∧
    (s.endFrame).panCoord = s.panCoord ∧ (s.endFrame).beaconEn = s.beaconEn ∧
    (s.endFrame).dcBeacon = s.dcBeacon ∧ (s.endFrame).dcBucket = s.dcBucket ∧
    (s.endFrame).dcTotal = s.dcTotal ∧ (s.endFrame).dcCur = s.dcCur ∧ (s.endFrame).dcMode = s.dcMode ∧
    (s.endFrame).dcRecorded = s.dcRecorded ∧ (s.endFrame).sched = s.sched ∧
    (s.endFrame).busData = s.busData := by
  unfold State.endFrame
  dsimp only
  split <;> simp

@[simp] theorem State.frameOkEvent_fields (s : State) :
    (s.frameOkEvent).cfg = s.cfg ∧ (s.frameOkEvent).init = s.init ∧ (s.frameOkEvent).fatal = s.fatal ∧
    (s.frameOkEvent).ringAllocated = s.ringAllocated ∧ (s.frameOkEvent).faults = s.faults ∧
    (s.frameOkEvent).arg0 = s.arg0 ∧ (s.frameOkEvent).arg1 = s.arg1 ∧ (s.frameOkEvent).res = s.res ∧
    (s.frameOkEvent).progChannel = s.progChannel ∧ (s.frameOkEvent).progValid = s.progValid ∧
    (s.frameOkEvent).txPowerCur = s.txPowerCur ∧ (s.frameOkEvent).txPowerCurValid = s.txPowerCurValid ∧
    (s.frameOkEvent).txPowerPend = s.txPowerPend ∧ (s.frameOkEvent).txPowerPendValid = s.txPowerPendValid ∧
    (s.frameOkEvent).txAckReq = s.txAckReq ∧ (s.frameOkEvent).txSeq = s.txSeq ∧
    (s.frameOkEvent).txDur = s.txDur ∧ (s.frameOkEvent).ackWaitSeq = s.ackWaitSeq ∧
    (s.frameOkEvent).bo = s.bo ∧ (s.frameOkEvent).retryEvt = s.retryEvt ∧
    (s.frameOkEvent).retryArgs = s.retryArgs ∧ (s.frameOkEvent).tc = s.tc ∧
    (s.frameOkEvent).frameHandle = s.frameHandle ∧ (s.frameOkEvent).curEntry = s.curEntry ∧
    (s.frameOkEvent).ringData = s.ringData ∧
    (s.frameOkEvent).radioLast = s.radioLast ∧ (s.frameOkEvent).fPan = s.fPan ∧
    (s.frameOkEvent).fShort = s.fShort ∧ (s.frameOkEvent).fExt = s.fExt ∧
    (s.frameOkEvent).fAllow = s.fAllow ∧ (s.frameOkEvent).fPromisc = s.fPromisc ∧
    (s.frameOkEvent).fEnhAck = s.fEnhAck ∧ (s.frameOkEvent).fAckFP = s.fAckFP ∧
    (s.frameOkEvent).panCoord = s.panCoord ∧ (s.frameOkEvent).beaconEn = s.beaconEn ∧
    (s.frameOkEvent).dcBeacon = s.dcBeacon ∧ (s.frameOkEvent).dcBucket = s.dcBucket ∧
    (s.frameOkEvent).dcTotal = s.dcTotal ∧ (s.frameOkEvent).dcCur = s.dcCur ∧
    (s.frameOkEvent).dcMode = s.dcMode ∧ (s.frameOkEvent).dcRecorded = s.dcRecorded ∧
    (s.frameOkEvent).sched = s.sched ∧ (s.frameOkEvent).busData = s.busData := by
  unfold State.frameOkEvent
  split <;> simp

@[simp] theorem State.badCrcEvent_fields (s : State) :
    (s.badCrcEvent).cfg = s.cfg ∧ (s.badCrcEvent).init = s.init ∧ (s.badCrcEvent).fatal = s.fatal ∧
    (s.badCrcEvent).ringAllocated = s.ringAllocated ∧ (s.badCrcEvent).faults = s.faults ∧
    (s.badCrcEvent).arg0 = s.arg0 ∧ (s.badCrcEvent).arg1 = s.arg1 ∧ (s.badCrcEvent).res = s.res ∧
    (s.badCrcEvent).cntTotal = s.cntTotal ∧ (s.badCrcEvent).cntRx = s.cntRx ∧
    (s.badCrcEvent).inflight = s.inflight ∧ (s.badCrcEvent).progChannel = s.progChannel ∧
    (s.badCrcEvent).progValid = s.progValid ∧ (s.badCrcEvent).txPowerCur = s.txPowerCur ∧
    (s.badCrcEvent).txPowerCurValid = s.txPowerCurValid ∧ (s.badCrcEvent).txPowerPend = s.txPowerPend ∧
    (s.badCrcEvent).txPowerPendValid = s.txPowerPendValid ∧ (s.badCrcEvent).desc = s.desc ∧
    (s.badCrcEvent).txAckReq = s.txAckReq ∧ (s.badCrcEvent).txSeq = s.txSeq ∧
    (s.badCrcEvent).txDur = s.txDur ∧ (s.badCrcEvent).ackWait = s.ackWait ∧
    (s.badCrcEvent).ackWaitSeq = s.ackWaitSeq ∧ (s.badCrcEvent).bo = s.bo ∧
    (s.badCrcEvent).retryEvt = s.retryEvt ∧ (s.badCrcEvent).retryArgs = s.retryArgs ∧
    (s.badCrcEvent).tc = s.tc ∧ (s.badCrcEvent).frameHandle = s.frameHandle ∧
    (s.badCrcEvent).curEntry = s.curEntry ∧ (s.badCrcEvent).ringData = s.ringData ∧
    (s.badCrcEvent).radioLast = s.radioLast ∧
    (s.badCrcEvent).fPan = s.fPan ∧ (s.badCrcEvent).fShort = s.fShort ∧ (s.badCrcEvent).fExt = s.fExt ∧
    (s.badCrcEvent).fAllow = s.fAllow ∧ (s.badCrcEvent).fPromisc = s.fPromisc ∧
    (s.badCrcEvent).fEnhAck = s.fEnhAck ∧ (s.badCrcEvent).fAckFP = s.fAckFP ∧
    (s.badCrcEvent).panCoord = s.panCoord ∧ (s.badCrcEvent).beaconEn = s.beaconEn ∧
    (s.badCrcEvent).dcBeacon = s.dcBeacon ∧ (s.badCrcEvent).dcBucket = s.dcBucket ∧
    (s.badCrcEvent).dcTotal = s.dcTotal ∧ (s.badCrcEvent).dcCur = s.dcCur ∧
    (s.badCrcEvent).dcMode = s.dcMode ∧ (s.badCrcEvent).dcRecorded = s.dcRecorded ∧
    (s.badCrcEvent).sched = s.sched ∧ (s.badCrcEvent).draws = s.draws ∧ (s.badCrcEvent).busData = s.busData := by
  unfold State.badCrcEvent
  repeat' split
  all_goals simp

@[simp] theorem State.bufFullEvent_fields (s : State) :
    (s.bufFullEvent).cfg = s.cfg ∧ (s.bufFullEvent).init = s.init ∧ (s.bufFullEvent).fatal = s.fatal ∧
    (s.bufFullEvent).ringAllocated = s.ringAllocated ∧ (s.bufFullEvent).faults = s.faults ∧
    (s.bufFullEvent).arg0 = s.arg0 ∧ (s.bufFullEvent).arg1 = s.arg1 ∧ (s.bufFullEvent).res = s.res ∧
    (s.bufFullEvent).cntTotal = s.cntTotal ∧ (s.bufFullEvent).cntRx = s.cntRx ∧
    (s.bufFullEvent).inflight = s.inflight ∧ (s.bufFullEvent).progChannel = s.progChannel ∧
    (s.bufFullEvent).progValid = s.progValid ∧ (s.bufFullEvent).txPowerCur = s.txPowerCur ∧
    (s.bufFullEvent).txPowerCurValid = s.txPowerCurValid ∧ (s.bufFullEvent).txPowerPend = s.txPowerPend ∧
    (s.bufFullEvent).txPowerPendValid = s.txPowerPendValid ∧ (s.bufFullEvent).desc = s.desc ∧
    (s.bufFullEvent).txAckReq = s.txAckReq ∧ (s.bufFullEvent).txSeq = s.txSeq ∧
    (s.bufFullEvent).txDur = s.txDur ∧ (s.bufFullEvent).ackWait = s.ackWait ∧
    (s.bufFullEvent).ackWaitSeq = s.ackWaitSeq ∧ (s.bufFullEvent).bo = s.bo ∧
    (s.bufFullEvent).retryEvt = s.retryEvt ∧ (s.bufFullEvent).retryArgs = s.retryArgs ∧
    (s.bufFullEvent).tc = s.tc ∧ (s.bufFullEvent).frameHandle = s.frameHandle ∧
    (s.bufFullEvent).curEntry = s.curEntry ∧ (s.bufFullEvent).ringData = s.ringData ∧
    (s.bufFullEvent).radioLast = s.radioLast ∧
    (s.bufFullEvent).fPan = s.fPan ∧ (s.bufFullEvent).fShort = s.fShort ∧ (s.bufFullEvent).fExt = s.fExt ∧
    (s.bufFullEvent).fAllow = s.fAllow ∧ (s.bufFullEvent).fPromisc = s.fPromisc ∧
    (s.bufFullEvent).fEnhAck = s.fEnhAck ∧ (s.bufFullEvent).fAckFP = s.fAckFP ∧
    (s.bufFullEvent).panCoord = s.panCoord ∧ (s.bufFullEvent).beaconEn = s.beaconEn ∧
    (s.bufFullEvent).dcBeacon = s.dcBeacon ∧ (s.bufFullEvent).dcBucket = s.dcBucket ∧
    (s.bufFullEvent).dcTotal = s.dcTotal ∧ (s.bufFullEvent).dcCur = s.dcCur ∧
    (s.bufFullEvent).dcMode = s.dcMode ∧ (s.bufFullEvent).dcRecorded = s.dcRecorded ∧
    (s.bufFullEvent).sched = s.sched ∧ (s.bufFullEvent).draws = s.draws ∧
    (s.bufFullEvent).busData = s.busData := by
  unfold State.bufFullEvent
  repeat' split
  all_goals simp

@[simp] theorem State.preambleEvent_fields (s : State) :
    (s.preambleEvent).cfg = s.cfg ∧ (s.preambleEvent).init = s.init ∧ (s.preambleEvent).fatal = s.fatal ∧
    (s.preambleEvent).ringAllocated = s.ringAllocated ∧ (s.preambleEvent).faults = s.faults ∧
    (s.preambleEvent).arg0 = s.arg0 ∧ (s.preambleEvent).arg1 = s.arg1 ∧ (s.preambleEvent).res = s.res ∧
    (s.preambleEvent).cntTotal = s.cntTotal ∧ (s.preambleEvent).cntRx = s.cntRx ∧
    (s.preambleEvent).inflight = s.inflight ∧ (s.preambleEvent).progChannel = s.progChannel ∧
    (s.preambleEvent).progValid = s.progValid ∧ (s.preambleEvent).txPowerCur = s.txPowerCur ∧
    (s.preambleEvent).txPowerCurValid = s.txPowerCurValid ∧ (s.preambleEvent).txPowerPend = s.txPowerPend ∧
    (s.preambleEvent).txPowerPendValid = s.txPowerPendValid ∧ (s.preambleEvent).desc = s.desc ∧
    (s.preambleEvent).txAckReq = s.txAckReq ∧ (s.preambleEvent).txSeq = s.txSeq ∧
    (s.preambleEvent).txDur = s.txDur ∧ (s.preambleEvent).ackWait = s.ackWait ∧
    (s.preambleEvent).ackWaitSeq = s.ackWaitSeq ∧ (s.preambleEvent).bo = s.bo ∧
    (s.preambleEvent).retryEvt = s.retryEvt ∧ (s.preambleEvent).retryArgs = s.retryArgs ∧
    (s.preambleEvent).tc = s.tc ∧ (s.preambleEvent).ringData = s.ringData ∧
    (s.preambleEvent).radioLast = s.radioLast ∧
    (s.preambleEvent).fPan = s.fPan ∧ (s.preambleEvent).fShort = s.fShort ∧
    (s.preambleEvent).fExt = s.fExt ∧ (s.preambleEvent).fAllow = s.fAllow ∧
    (s.preambleEvent).fPromisc = s.fPromisc ∧ (s.preambleEvent).fEnhAck = s.fEnhAck ∧
    (s.preambleEvent).fAckFP = s.fAckFP ∧ (s.preambleEvent).panCoord = s.panCoord ∧
    (s.preambleEvent).beaconEn = s.beaconEn ∧ (s.preambleEvent).dcBeacon = s.dcBeacon ∧
    (s.preambleEvent).dcBucket = s.dcBucket ∧ (s.preambleEvent).dcTotal = s.dcTotal ∧
    (s.preambleEvent).dcCur = s.dcCur ∧ (s.preambleEvent).dcMode = s.dcMode ∧
    (s.preambleEvent).dcRecorded = s.dcRecorded ∧ (s.preambleEvent).sched = s.sched ∧
    (s.preambleEvent).draws = s.draws ∧ (s.preambleEvent).busData = s.busData := by
  unfold State.preambleEvent
  dsimp only
  repeat' split
  all_goals simp

/-! ## Commands and retries that draw -/

theorem cmdInit_eq (s : State) :
    cmdInit s =
      if s.fatal then s.result .fatal
      else if s.init && decide (0 < s.cntTotal.toNat) then s.result .busy
      else if s.ringAllocated then s.initialise
      else if s.drawRingAllocOk.1 then { s.drawRingAllocOk.2 with ringAllocated := true }.initialise
      else { s.drawRingAllocOk.2 with fatal := true, init := true }.result .fatal := rfl

theorem cmdSetupTc_eq (ch : TcChan) (cb : Half) (s : State) :
    cmdSetupTc ch cb s =
      s.guardCmd fun s =>
        ((s.disarm ch).drawRatNow.2.armTc ch cb ((s.disarm ch).drawRatNow.1 + s.arg0)).result .ok := rfl

theorem State.retryStep_eq (s : State) (c : OpClass) :
    s.retryStep c =
      let s1 := { s with retryEvt := s.retryEvt.set c false }
      if (s.retryArgs.get c).valid then
        (s1.retrySubmit c (s.retryArgs.get c)).2.retryOutcome c (s1.retrySubmit c (s.retryArgs.get c)).1
      else s1 := rfl

/-! ## Event words -/

@[simp] theorem State.bitRule_fields (s : State) (h : Slot) (b : Nat) :
    (s.bitRule h b).cfg = s.cfg ∧ (s.bitRule h b).init = s.init ∧ (s.bitRule h b).fatal = s.fatal ∧
    (s.bitRule h b).ringAllocated = s.ringAllocated ∧ (s.bitRule h b).faults = s.faults ∧
    (s.bitRule h b).arg0 = s.arg0 ∧ (s.bitRule h b).arg1 = s.arg1 ∧ (s.bitRule h b).res = s.res ∧
    (s.bitRule h b).progChannel = s.progChannel ∧ (s.bitRule h b).progValid = s.progValid ∧
    (s.bitRule h b).txPowerPend = s.txPowerPend ∧ (s.bitRule h b).txAckReq = s.txAckReq ∧
    (s.bitRule h b).txSeq = s.txSeq ∧ (s.bitRule h b).txDur = s.txDur ∧ (s.bitRule h b).bo = s.bo ∧
    (s.bitRule h b).retryEvt = s.retryEvt ∧ (s.bitRule h b).retryArgs = s.retryArgs ∧
    (s.bitRule h b).ringData = s.ringData ∧
    (s.bitRule h b).radioLast = s.radioLast ∧ (s.bitRule h b).fPan = s.fPan ∧
    (s.bitRule h b).fShort = s.fShort ∧ (s.bitRule h b).fExt = s.fExt ∧ (s.bitRule h b).fAllow = s.fAllow ∧
    (s.bitRule h b).fPromisc = s.fPromisc ∧ (s.bitRule h b).fEnhAck = s.fEnhAck ∧
    (s.bitRule h b).fAckFP = s.fAckFP ∧ (s.bitRule h b).panCoord = s.panCoord ∧
    (s.bitRule h b).beaconEn = s.beaconEn ∧ (s.bitRule h b).dcBeacon = s.dcBeacon ∧
    (s.bitRule h b).dcCur = s.dcCur ∧ (s.bitRule h b).sched = s.sched ∧ (s.bitRule h b).busData = s.busData := by
  unfold State.bitRule
  split <;> simp [State.cmdDoneEvent, State.cmdStoppedEvent, State.cmdPreemptedEvent]

@[simp] theorem State.eventBit_fields (s : State) (h : Slot) (b : Nat) :
    (s.eventBit h b).cfg = s.cfg ∧ (s.eventBit h b).init = s.init ∧ (s.eventBit h b).fatal = s.fatal ∧
    (s.eventBit h b).ringAllocated = s.ringAllocated ∧ (s.eventBit h b).faults = s.faults ∧
    (s.eventBit h b).arg0 = s.arg0 ∧ (s.eventBit h b).arg1 = s.arg1 ∧ (s.eventBit h b).res = s.res ∧
    (s.eventBit h b).progChannel = s.progChannel ∧ (s.eventBit h b).progValid = s.progValid ∧
    (s.eventBit h b).txPowerPend = s.txPowerPend ∧ (s.eventBit h b).txAckReq = s.txAckReq ∧
    (s.eventBit h b).txSeq = s.txSeq ∧ (s.eventBit h b).txDur = s.txDur ∧ (s.eventBit h b).bo = s.bo ∧
    (s.eventBit h b).retryEvt = s.retryEvt ∧ (s.eventBit h b).retryArgs = s.retryArgs ∧
    (s.eventBit h b).ringData = s.ringData ∧
    (s.eventBit h b).radioLast = s.radioLast ∧ (s.eventBit h b).fPan = s.fPan ∧
    (s.eventBit h b).fShort = s.fShort ∧ (s.eventBit h b).fExt = s.fExt ∧
    (s.eventBit h b).fAllow = s.fAllow ∧ (s.eventBit h b).fPromisc = s.fPromisc ∧
    (s.eventBit h b).fEnhAck = s.fEnhAck ∧ (s.eventBit h b).fAckFP = s.fAckFP ∧
    (s.eventBit h b).panCoord = s.panCoord ∧ (s.eventBit h b).beaconEn = s.beaconEn ∧
    (s.eventBit h b).dcBeacon = s.dcBeacon ∧ (s.eventBit h b).dcCur = s.dcCur ∧
    (s.eventBit h b).sched = s.sched ∧ (s.eventBit h b).busData = s.busData := by
  unfold State.eventBit
  split <;> simp

theorem State.foldEventBits_fields (h : Slot) (bits : Byte) (l : List Nat) : ∀ s : State,
    (l.foldl (fun s b => if bits.getLsbD b then s.eventBit h b else s) s).cfg = s.cfg ∧
    (l.foldl (fun s b => if bits.getLsbD b then s.eventBit h b else s) s).init = s.init ∧
    (l.foldl (fun s b => if bits.getLsbD b then s.eventBit h b else s) s).fatal = s.fatal ∧
    (l.foldl (fun s b => if bits.getLsbD b then s.eventBit h b else s) s).ringAllocated = s.ringAllocated ∧
    (l.foldl (fun s b => if bits.getLsbD b then s.eventBit h b else s) s).faults = s.faults ∧
    (l.foldl (fun s b => if bits.getLsbD b then s.eventBit h b else s) s).arg0 = s.arg0 ∧
    (l.foldl (fun s b => if bits.getLsbD b then s.eventBit h b else s) s).arg1 = s.arg1 ∧
    (l.foldl (fun s b => if bits.getLsbD b then s.eventBit h b else s) s).res = s.res ∧
    (l.foldl (fun s b => if bits.getLsbD b then s.eventBit h b else s) s).progChannel = s.progChannel ∧
    (l.foldl (fun s b => if bits.getLsbD b then s.eventBit h b else s) s).progValid = s.progValid ∧
    (l.foldl (fun s b => if bits.getLsbD b then s.eventBit h b else s) s).txPowerPend = s.txPowerPend ∧
    (l.foldl (fun s b => if bits.getLsbD b then s.eventBit h b else s) s).txAckReq = s.txAckReq ∧
    (l.foldl (fun s b => if bits.getLsbD b then s.eventBit h b else s) s).txSeq = s.txSeq ∧
    (l.foldl (fun s b => if bits.getLsbD b then s.eventBit h b else s) s).txDur = s.txDur ∧
    (l.foldl (fun s b => if bits.getLsbD b then s.eventBit h b else s) s).bo = s.bo ∧
    (l.foldl (fun s b => if bits.getLsbD b then s.eventBit h b else s) s).retryEvt = s.retryEvt ∧
    (l.foldl (fun s b => if bits.getLsbD b then s.eventBit h b else s) s).retryArgs = s.retryArgs ∧
    (l.foldl (fun s b => if bits.getLsbD b then s.eventBit h b else s) s).ringData = s.ringData ∧
    (l.foldl (fun s b => if bits.getLsbD b then s.eventBit h b else s) s).radioLast = s.radioLast ∧
    (l.foldl (fun s b => if bits.getLsbD b then s.eventBit h b else s) s).fPan = s.fPan ∧
    (l.foldl (fun s b => if bits.getLsbD b then s.eventBit h b else s) s).fShort = s.fShort ∧
    (l.foldl (fun s b => if bits.getLsbD b then s.eventBit h b else s) s).fExt = s.fExt ∧
    (l.foldl (fun s b => if bits.getLsbD b then s.eventBit h b else s) s).fAllow = s.fAllow ∧
    (l.foldl (fun s b => if bits.getLsbD b then s.eventBit h b else s) s).fPromisc = s.fPromisc ∧
    (l.foldl (fun s b => if bits.getLsbD b then s.eventBit h b else s) s).fEnhAck = s.fEnhAck ∧
    (l.foldl (fun s b => if bits.getLsbD b then s.eventBit h b else s) s).fAckFP = s.fAckFP ∧
    (l.foldl (fun s b => if bits.getLsbD b then s.eventBit h b else s) s).panCoord = s.panCoord ∧
    (l.foldl (fun s b => if bits.getLsbD b then s.eventBit h b else s) s).beaconEn = s.beaconEn ∧
    (l.foldl (fun s b => if bits.getLsbD b then s.eventBit h b else s) s).dcBeacon = s.dcBeacon ∧
    (l.foldl (fun s b => if bits.getLsbD b then s.eventBit h b else s) s).dcCur = s.dcCur ∧
    (l.foldl (fun s b => if bits.getLsbD b then s.eventBit h b else s) s).sched = s.sched ∧
    (l.foldl (fun s b => if bits.getLsbD b then s.eventBit h b else s) s).busData = s.busData := by
  induction l with
  | nil => intro s; simp
  | cons b l ih =>
    intro s
    simp only [List.foldl_cons]
    split <;> simp [ih]

/-- The set bits of an event word (30_encoding.md R161). -/
@[simp] theorem State.eventBits_fields (s : State) (h : Slot) (bits : Byte) :
    (s.eventBits h bits).cfg = s.cfg ∧ (s.eventBits h bits).init = s.init ∧
    (s.eventBits h bits).fatal = s.fatal ∧ (s.eventBits h bits).ringAllocated = s.ringAllocated ∧
    (s.eventBits h bits).faults = s.faults ∧ (s.eventBits h bits).arg0 = s.arg0 ∧
    (s.eventBits h bits).arg1 = s.arg1 ∧ (s.eventBits h bits).res = s.res ∧
    (s.eventBits h bits).progChannel = s.progChannel ∧ (s.eventBits h bits).progValid = s.progValid ∧
    (s.eventBits h bits).txPowerPend = s.txPowerPend ∧ (s.eventBits h bits).txAckReq = s.txAckReq ∧
    (s.eventBits h bits).txSeq = s.txSeq ∧ (s.eventBits h bits).txDur = s.txDur ∧
    (s.eventBits h bits).bo = s.bo ∧ (s.eventBits h bits).retryEvt = s.retryEvt ∧
    (s.eventBits h bits).retryArgs = s.retryArgs ∧ (s.eventBits h bits).ringData = s.ringData ∧
    (s.eventBits h bits).radioLast = s.radioLast ∧
    (s.eventBits h bits).fPan = s.fPan ∧ (s.eventBits h bits).fShort = s.fShort ∧
    (s.eventBits h bits).fExt = s.fExt ∧ (s.eventBits h bits).fAllow = s.fAllow ∧
    (s.eventBits h bits).fPromisc = s.fPromisc ∧ (s.eventBits h bits).fEnhAck = s.fEnhAck ∧
    (s.eventBits h bits).fAckFP = s.fAckFP ∧ (s.eventBits h bits).panCoord = s.panCoord ∧
    (s.eventBits h bits).beaconEn = s.beaconEn ∧ (s.eventBits h bits).dcBeacon = s.dcBeacon ∧
    (s.eventBits h bits).dcCur = s.dcCur ∧ (s.eventBits h bits).sched = s.sched ∧
    (s.eventBits h bits).busData = s.busData := by
  exact State.foldEventBits_fields h bits _ s

end Sys2Proof.Machine
end

