-- ==== Sys2Proof/Laws/PerInstr.lean ====
section
/-!
SUPPORT. One lemma per instruction: its words lie in the opcode table. A command word matches its row of
30_encoding.md R154 under the row's mask, so its reserved bits are zero; an event word has bits 31:16 zero
and an event bit set (R159, R161).
-/

namespace Sys2Proof.Laws.TableRow

open Sys2Proof

/-- The words an instruction is encoded as, at its port, are words of the opcode table. -/
def Statement (i : Instr) : Prop :=
  ∀ w ∈ encode i,
    match i.port with
    | .cmd => ∃ k : Fin 16, w &&& (cmdTable.get k).mask = (cmdTable.get k).pattern
    | .evt => evtReservedField w = 0 ∧ eventField w ≠ 0

/-- A command word matches row k when its fields match the row's mask and pattern, field by field. -/
theorem row_of_fields (k : Fin 16) {o s f i} (o' : Byte) (s' f' : BitVec 4) (i' : Half)
    (hm : (cmdTable.get k).mask = cmdWord o' s' f' i')
    (hp : cmdWord (o &&& o') (s &&& s') (f &&& f') (i &&& i') = (cmdTable.get k).pattern) :
    ∃ k : Fin 16, cmdWord o s f i &&& (cmdTable.get k).mask = (cmdTable.get k).pattern :=
  ⟨k, by rw [hm, cmdWord_and, hp]⟩

/-- FLG bits outside the ones an instruction uses are zero. -/
theorem flgBits_masked :
    (∀ a, flgBits a false false &&& 14 = 0) ∧ (∀ a b, flgBits a b false &&& 12 = 0) ∧
      ∀ a b c, flgBits a b c &&& 8 = 0 := by decide

/-- The SEL field of a timer-compare channel has bits 3:1 zero. -/
theorem chanSel_masked (ch : TcChan) : ((0 : BitVec 3) ++ BitVec.ofBool (chanBit ch)) &&& 14 = 0 := by
  cases ch <;> decide

/-- IMM of SET_FILTER_MODE has bits 15:8 zero. -/
theorem allow_masked (a : Byte) : ((0 : Byte) ++ a : Half) &&& 0xFF00 = 0 := by
  apply BitVec.eq_of_toNat_eq
  rw [BitVec.toNat_and, toNat_append_add]
  show (0 * 2 ^ 8 + a.toNat) &&& (255 <<< 8) = 0
  refine Nat.eq_of_testBit_eq fun k => ?_
  have : 8 ≤ k → a.toNat.testBit k = false := fun h =>
    Nat.testBit_lt_two_pow (lt_of_lt_of_le a.isLt (Nat.pow_le_pow_right (by decide) h))
  rw [Nat.testBit_and, Nat.testBit_shiftLeft]
  by_cases h : 8 ≤ k <;> simp [h, this]

/-- An event word with a non-zero event field. -/
theorem evt_of_bits {h b : Byte} (hb : b ≠ 0) :
    evtReservedField (evtWord h b) = 0 ∧ eventField (evtWord h b) ≠ 0 := by simpa using hb

/-- An appended vector whose low part is not zero is not zero. -/
theorem append_ne_zero {a n : Nat} (l : BitVec a) {c : BitVec n} (h : c ≠ 0) : l ++ c ≠ 0 := by
  intro e
  apply h
  have h1 := congrArg BitVec.toNat e
  rw [toNat_append_add] at h1
  apply BitVec.eq_of_toNat_eq
  have : c.toNat = 0 := by simp at h1; omega
  simpa using this

theorem init : Statement .init := by
  intro w hw
  rw [encode, List.mem_singleton] at hw
  subst hw
  exact row_of_fields 0 0xFF 0xF 0xF 0xFFFF rfl rfl

theorem submitRx (ch : Half) : Statement (.submitRx ch) := by
  intro w hw
  rw [encode, List.mem_singleton] at hw
  subst hw
  exact row_of_fields 1 0xFF 0xF 0xF 0 rfl (by simp; rfl)

theorem submitTx (ch : Half) (ackReq cca : Bool) : Statement (.submitTx ch ackReq cca) := by
  intro w hw
  rw [encode, List.mem_singleton] at hw
  subst hw
  exact row_of_fields 2 0xFF 0xF 0xC 0 rfl (by rw [flgBits_masked.2.1]; simp; rfl)

theorem submitNoop : Statement .submitNoop := by
  intro w hw
  rw [encode, List.mem_singleton] at hw
  subst hw
  exact row_of_fields 3 0xFF 0xF 0xF 0xFFFF rfl rfl

theorem stopAll (g : Bool) : Statement (.stopAll g) := by
  intro w hw
  rw [encode, List.mem_singleton] at hw
  subst hw
  exact row_of_fields 4 0xFF 0xF 0xE 0xFFFF rfl (by rw [flgBits_masked.1]; simp; rfl)

theorem updateTxPower (v : Half) : Statement (.updateTxPower v) := by
  intro w hw
  rw [encode, List.mem_singleton] at hw
  subst hw
  exact row_of_fields 5 0xFF 0xF 0xF 0 rfl (by simp; rfl)

theorem setupTc (ch : TcChan) (cb : Half) : Statement (.setupTc ch cb) := by
  intro w hw
  rw [encode, List.mem_singleton] at hw
  subst hw
  exact row_of_fields 6 0xFF 0xE 0xF 0 rfl (by rw [chanSel_masked]; simp; rfl)

theorem dcRecord : Statement .dcRecord := by
  intro w hw
  rw [encode, List.mem_singleton] at hw
  subst hw
  exact row_of_fields 7 0xFF 0xF 0xF 0xFFFF rfl rfl

theorem dcCheck : Statement .dcCheck := by
  intro w hw
  rw [encode, List.mem_singleton] at hw
  subst hw
  exact row_of_fields 8 0xFF 0xF 0xF 0xFFFF rfl rfl

theorem dcAdvance : Statement .dcAdvance := by
  intro w hw
  rw [encode, List.mem_singleton] at hw
  subst hw
  exact row_of_fields 9 0xFF 0xF 0xF 0xFFFF rfl rfl

theorem setRole (p b : Bool) : Statement (.setRole p b) := by
  intro w hw
  rw [encode, List.mem_singleton] at hw
  subst hw
  exact row_of_fields 10 0xFF 0xF 0xC 0xFFFF rfl (by rw [flgBits_masked.2.1]; simp; rfl)

theorem backoffReq (sel : BitVec 4) : Statement (.backoffReq sel) := by
  intro w hw
  rw [encode, List.mem_singleton] at hw
  subst hw
  exact row_of_fields 11 0xFF 0 0xF 0xFFFF rfl (by simp; rfl)

theorem setPan (p : Half) : Statement (.setPan p) := by
  intro w hw
  rw [encode, List.mem_singleton] at hw
  subst hw
  exact row_of_fields 12 0xFF 0xF 0xF 0 rfl (by simp; rfl)

theorem setShort (a : Half) : Statement (.setShort a) := by
  intro w hw
  rw [encode, List.mem_singleton] at hw
  subst hw
  exact row_of_fields 13 0xFF 0xF 0xF 0 rfl (by simp; rfl)

theorem setExt : Statement .setExt := by
  intro w hw
  rw [encode, List.mem_singleton] at hw
  subst hw
  exact row_of_fields 14 0xFF 0xF 0xF 0xFFFF rfl rfl

theorem setFilterMode (allow : Byte) (p e f : Bool) : Statement (.setFilterMode allow p e f) := by
  intro w hw
  rw [encode, List.mem_singleton] at hw
  subst hw
  exact row_of_fields 15 0xFF 0xF 0x8 0xFF00 rfl (by rw [flgBits_masked.2.2, allow_masked]; simp; rfl)

theorem evtPreamble (h : Byte) (l : BitVec 7) : Statement (.evtPreamble h l) := by
  intro w hw
  rw [encode, List.mem_singleton] at hw
  subst hw
  exact evt_of_bits (append_ne_zero l (by decide))

theorem evtFrameOk (h : Byte) (l : BitVec 6) : Statement (.evtFrameOk h l) := by
  intro w hw
  rw [encode, List.mem_singleton] at hw
  subst hw
  exact evt_of_bits (append_ne_zero l (by decide))

theorem evtBadCrc (h : Byte) (l : BitVec 5) : Statement (.evtBadCrc h l) := by
  intro w hw
  rw [encode, List.mem_singleton] at hw
  subst hw
  exact evt_of_bits (append_ne_zero l (by decide))

theorem evtBufFull (h : Byte) (l : BitVec 4) : Statement (.evtBufFull h l) := by
  intro w hw
  rw [encode, List.mem_singleton] at hw
  subst hw
  exact evt_of_bits (append_ne_zero l (by decide))

theorem evtCmdDone (h : Byte) (l : BitVec 3) : Statement (.evtCmdDone h l) := by
  intro w hw
  rw [encode, List.mem_singleton] at hw
  subst hw
  exact evt_of_bits (append_ne_zero l (by decide))

theorem evtCmdStopped (h : Byte) (l : BitVec 2) : Statement (.evtCmdStopped h l) := by
  intro w hw
  rw [encode, List.mem_singleton] at hw
  subst hw
  exact evt_of_bits (append_ne_zero l (by decide))

theorem evtCmdPreempted (h : Byte) (l : BitVec 1) : Statement (.evtCmdPreempted h l) := by
  intro w hw
  rw [encode, List.mem_singleton] at hw
  subst hw
  exact evt_of_bits (append_ne_zero l (by decide))

theorem evtTcFired (h : Byte) : Statement (.evtTcFired h) := by
  intro w hw
  rw [encode, List.mem_singleton] at hw
  subst hw
  exact evt_of_bits (by decide)

theorem backoffCancel (sel : BitVec 4) : Statement (.backoffCancel sel) := backoffReq sel

theorem stopNow : Statement .stopNow := stopAll false

theorem stopGraceful : Statement .stopGraceful := stopAll true

theorem tcRearm (ch : TcChan) (cb : Half) (d : Word) : Statement (.tcRearm ch cb d) := setupTc ch cb

theorem setAddr (p a : Half) (e : DWord) : Statement (.setAddr p a e) := by
  intro w hw
  rw [encode, List.mem_cons, List.mem_cons, List.mem_singleton] at hw
  obtain rfl | rfl | rfl := hw
  · exact setPan p _ (List.mem_singleton.2 rfl)
  · exact setShort a _ (List.mem_singleton.2 rfl)
  · exact setExt _ (List.mem_singleton.2 rfl)

theorem promiscOn : Statement .promiscOn := setFilterMode 0xFF true false false

end Sys2Proof.Laws.TableRow
end

