-- ==== Sys2Proof/Laws/Step.lean ====
section
/-!
SUPPORT. What a step can do, said once: `step_cases` takes a step apart into the move it made, and the
`keeps` lemmas reduce "every step keeps P" to the commands, the event bits and the agents' steps.
-/

namespace Sys2Proof.Machine

/-- What the move taken from a schedule did, from the state after it was taken. -/
inductive MoveCase (s : State) : State → Prop
  /-- A command or event word ran its instruction. -/
  | exec (i : Instr) {t : State} (h : Sys2Proof.Machine.exec i s = .next t) : MoveCase s t
  /-- A CMD word that is no instruction (30_encoding.md R155). -/
  | illegal (w : Word) : MoveCase s (s.illegalCmd w)
  /-- A write of ARG0 (20_memory.md R105). -/
  | arg0 (v : Word) : MoveCase s (s.writeArg0 v)
  /-- A write of ARG1. -/
  | arg1 (v : Word) : MoveCase s (s.writeArg1 v)
  /-- A write of any other register. -/
  | ignored : MoveCase s s
  /-- A register read. -/
  | read (off : Nat) : MoveCase s (s.readReg off)
  /-- An EVT word that is no instruction (R161). -/
  | badEvent : MoveCase s s.badEventWord
  /-- RADIO_RX_WRITE (R113). -/
  | ring (k : BitVec 4) (bytes : List Byte) (done : Bool) (h : s.ringWriteOk k bytes = true) :
      MoveCase s (s.ringWrite k bytes done)
  /-- An internal agent's step. -/
  | agent (a : Agent) (h : s.enabled a = true) : MoveCase s (s.agentStep a)

theorem runMove_cases {m : Move} {s t : State} (h : runMove m s = .next t) : MoveCase s t := by
  cases m with
  | regWrite width off v =>
    simp only [runMove, State.hostWrite, writeReg, cmdWrite] at h
    split at h
    · split at h
      · split at h
        · rename_i i hi
          exact .exec i h
        · cases h; exact .illegal v
      · split at h
        · cases h; exact .arg0 v
        · split at h
          · cases h; exact .arg1 v
          · cases h; exact .ignored
    · cases h
  | regRead width off =>
    simp only [runMove, State.hostRead] at h
    split at h
    · cases h; exact .read _
    · cases h
  | event w =>
    simp only [runMove, eventWord] at h
    split at h
    · rename_i i hi
      exact .exec i h
    · cases h; exact .badEvent
  | ringWrite k bytes done =>
    simp only [runMove, State.radioWrite] at h
    split at h
    · rename_i hk
      cases h; exact .ring k bytes done hk
    · cases h
  | agent a =>
    simp only [runMove, State.scheduledAgent] at h
    split at h
    · rename_i ha
      cases h; exact .agent a ha
    · cases h

/-- The radio's write position (20_memory.md R112, R115). -/
theorem State.atWritePosition_iff (s : State) (k : BitVec 4) :
    s.atWritePosition k = true ↔
      ∀ l, s.radioLast = some l →
        if (s.entry l).status = .active then k = l
        else k.toNat = (l.toNat + 1) % s.cfg.ringN := by
  unfold State.atWritePosition
  cases s.radioLast with
  | none => simp
  | some l =>
    simp only [Option.some.injEq, forall_eq']
    split <;> simp

/-- When the radio may write into an entry (R113; 60_exceptions.md R498 duties 2 to 4). -/
theorem State.ringWriteOk_iff (s : State) (k : BitVec 4) (bytes : List Byte) :
    s.ringWriteOk k bytes = true ↔
      k.toNat < s.cfg.ringN ∧ s.atWritePosition k = true ∧ (s.entry k).status ≠ .full ∧ 1 ≤ bytes.length ∧
        s.rxCount k + bytes.length ≤ s.cfg.entrySize ∧ s.rxCount k + bytes.length < 4096 ∧
        s.inflight.rx = true := by
  simp [State.ringWriteOk, State.entryFull, and_assoc]

/-- Which agents are enabled does not depend on the free-value counter. -/
@[simp] theorem State.enabled_bumpFree (s : State) (a : Agent) : s.bumpFree.enabled a = s.enabled a := rfl

/-- With nothing scheduled, the machine waits or an enabled agent steps. -/
theorem State.idleStep_cases (s : State) :
    s.idleStep = s ∨ ∃ a, s.enabled a = true ∧ s.idleStep = s.bumpFree.agentStep a := by
  unfold State.idleStep
  split
  · exact .inl rfl
  · rename_i a rest hf
    refine .inr ⟨_, ?_, rfl⟩
    have hm : ∀ b ∈ a :: rest, s.enabled b = true := by
      intro b hb
      rw [← hf, List.mem_filter] at hb
      exact hb.2
    have hl : Config.freeAgent s.draws.free % (rest.length + 1) < (a :: rest).length := by
      simpa using Nat.mod_lt _ (Nat.succ_pos _)
    rw [List.getD_eq_getElem _ _ hl]
    exact hm _ (List.getElem_mem hl)

/-- Everything a step can do. -/
theorem step_cases {s t : State} (h : step s = .next t) :
    s.cfg.admitted = true ∧
      ((s.sched = [] ∧ t = s.idleStep) ∨
        ∃ m rest, s.sched = m :: rest ∧ MoveCase { s with sched := rest } t) := by
  unfold step at h
  split at h
  · rename_i hc
    refine ⟨hc, ?_⟩
    split at h
    · rename_i hs
      cases h; exact .inl ⟨hs, rfl⟩
    · rename_i m rest hs
      exact .inr ⟨m, rest, hs, runMove_cases h⟩
  · cases h

/-! ## Keeping a property -/

/-- A property kept by every command body, every event word and the ARG writes is kept by every
instruction. -/
theorem exec_keeps {P : State → Prop} (arg0 : ∀ s v, P s → P (State.writeArg0 s v))
    (arg1 : ∀ s v, P s → P (State.writeArg1 s v)) (init : ∀ s, P s → P (cmdInit s))
    (submitRx : ∀ ch s, P s → P (cmdSubmitRx ch s)) (submitTx : ∀ ch a c s, P s → P (cmdSubmitTx ch a c s))
    (submitNoop : ∀ s, P s → P (cmdSubmitNoop s)) (stopAll : ∀ g s, P s → P (cmdStopAll g s))
    (power : ∀ v s, P s → P (cmdUpdateTxPower v s)) (setupTc : ∀ ch cb s, P s → P (cmdSetupTc ch cb s))
    (dcRecord : ∀ s, P s → P (cmdDcRecord s)) (dcCheck : ∀ s, P s → P (cmdDcCheck s))
    (dcAdvance : ∀ s, P s → P (cmdDcAdvance s)) (setRole : ∀ p b s, P s → P (cmdSetRole p b s))
    (backoff : ∀ sel s, P s → P (cmdBackoffReq sel s)) (setPan : ∀ p s, P s → P (cmdSetPan p s))
    (setShort : ∀ a s, P s → P (cmdSetShort a s)) (setExt : ∀ s, P s → P (cmdSetExt s))
    (filter : ∀ a p e f s, P s → P (cmdSetFilterMode a p e f s))
    (event : ∀ h b s, P s → P (State.deliverEvent s h b)) {i : Instr} {s t : State} (hs : P s)
    (h : exec i s = .next t) : P t := by
  cases i <;> cases h
  case init => exact init s hs
  case submitRx ch => exact submitRx ch s hs
  case submitTx ch a c => exact submitTx ch a c s hs
  case submitNoop => exact submitNoop s hs
  case stopAll g => exact stopAll g s hs
  case updateTxPower v => exact power v s hs
  case setupTc ch cb => exact setupTc ch cb s hs
  case dcRecord => exact dcRecord s hs
  case dcCheck => exact dcCheck s hs
  case dcAdvance => exact dcAdvance s hs
  case setRole p b => exact setRole p b s hs
  case backoffReq sel => exact backoff sel s hs
  case setPan p => exact setPan p s hs
  case setShort a => exact setShort a s hs
  case setExt => exact setExt s hs
  case setFilterMode a p e f => exact filter a p e f s hs
  case evtPreamble | evtFrameOk | evtBadCrc | evtBufFull | evtCmdDone | evtCmdStopped | evtCmdPreempted | evtTcFired =>
    exact event _ _ s hs
  case backoffCancel sel => exact backoff sel _ (arg0 s 0 hs)
  case stopNow => exact stopAll false s hs
  case stopGraceful => exact stopAll true s hs
  case tcRearm ch cb d => exact setupTc ch cb _ (arg0 s d hs)
  case setAddr p a e =>
    exact setExt _ (arg1 _ _ (arg0 _ _ (setShort a _ (setPan p s hs))))
  case promiscOn => exact filter _ _ _ _ s hs

/-- A guarded command keeps what the fault, the result and its body keep. -/
theorem State.guardCmd_keeps {P : State → Prop} {s : State} {body : State → State}
    (fault : P (s.raiseFault .uninit)) (fatal : P (s.result .fatal)) (run : s.ready → P (body s)) :
    P (s.guardCmd body) := by
  unfold State.guardCmd
  split
  · exact fault
  · split
    · exact fatal
    · simp_all [State.ready]

/-- An event word keeps what the fault, the count and the rules of its bits keep. -/
theorem State.deliverEvent_keeps {P : State → Prop} {s : State} (h bits : Byte) (hs : P s)
    (fault : P (s.raiseFault .uninit)) (count : ∀ s, P s → P (State.count s .unexpectedEvent))
    (rule : ∀ s x b, State.ready s → P s → x.eventMask.getLsbD b = true → P (State.bitRule s x b)) :
    P (s.deliverEvent h bits) := by
  unfold State.deliverEvent State.guardEvt
  split
  · exact fault
  · split
    · exact hs
    · rename_i hi hf
      split
      · exact count s hs
      · rename_i x _
        have hr : s.ready := by simp_all [State.ready]
        unfold State.eventBits
        generalize [0, 1, 2, 3, 4, 5, 6, 7] = l
        clear fault hi hf
        induction l generalizing s with
        | nil => exact hs
        | cons b l ih =>
          simp only [List.foldl_cons]
          split
          · apply ih
            · unfold State.eventBit
              split
              · exact rule s x b hr hs (by assumption)
              · exact count s hs
            · simpa [State.ready] using hr
          · exact ih hs hr

/-- A bad event word keeps what the fault and the count keep. -/
theorem State.badEventWord_keeps {P : State → Prop} {s : State} (hs : P s)
    (fault : P (s.raiseFault .uninit)) (count : P (s.count .unexpectedEvent)) : P s.badEventWord := by
  unfold State.badEventWord State.guardEvt
  split
  · exact fault
  · split
    · exact hs
    · exact count

theorem State.readReg_eq (s : State) (off : Nat) :
    s.readReg off =
      if s.readUnspecified off then { s.drawUnspecified.2 with busData := s.drawUnspecified.1 }
      else
        { (s.readStatusBits off).2 with
          busData := (s.regValue off (s.readStatusBits off).1).getD 0 } := by
  unfold State.readReg
  split <;> rfl

/-- Fields a register read leaves alone: all but the draws and the bus data. -/
theorem State.readReg_keeps {P : State → Prop} {s : State} (off : Nat) (hs : P s)
    (draws : ∀ (s : State) d, P s → P { s with draws := d })
    (bus : ∀ (s : State) v, P s → P { s with busData := v }) : P (s.readReg off) := by
  rw [State.readReg_eq]
  split
  · apply bus
    unfold State.drawUnspecified State.bumpFree
    split <;> exact draws _ _ hs
  · apply bus
    unfold State.readStatusBits State.drawStatusBits State.bumpFree
    repeat' split
    all_goals
      first
        | exact hs
        | exact draws _ _ hs

/-- A property kept by every instruction, every agent's step and every plain update is kept by a step. -/
theorem step_keeps {P : State → Prop}
    (sched : ∀ (s : State) l, P s → P { s with sched := l })
    (draws : ∀ (s : State) d, P s → P { s with draws := d })
    (bus : ∀ (s : State) v, P s → P { s with busData := v })
    (inst : ∀ i s t, s.cfg.admitted = true → P s → exec i s = .next t → P t)
    (fault : ∀ (s : State), P s → P (s.raiseFault .uninit))
    (res : ∀ (s : State) c, P s → P (s.result c))
    (count : ∀ (s : State), P s → P (s.count .unexpectedEvent))
    (arg0 : ∀ s v, P s → P (State.writeArg0 s v))
    (arg1 : ∀ s v, P s → P (State.writeArg1 s v))
    (ring : ∀ (s : State) k b d, s.cfg.admitted = true → P s → s.ringWriteOk k b = true → P (s.ringWrite k b d))
    (agent : ∀ (s : State) a, s.cfg.admitted = true → P s → s.enabled a = true → P (s.agentStep a))
    {s t : State} (hs : P s) (h : step s = .next t) : P t := by
  obtain ⟨hc, h | ⟨m, rest, hm, h⟩⟩ := step_cases h
  · obtain ⟨_, rfl⟩ := h
    obtain h | ⟨a, ha, h⟩ := s.idleStep_cases
    · rwa [h]
    · rw [h]; exact agent _ a hc (draws _ _ hs) ha
  · have hp := sched s rest hs
    have hcu : ({ s with sched := rest } : State).cfg.admitted = true := hc
    generalize ({ s with sched := rest } : State) = u at h hp hcu
    cases h with
    | exec i he => exact inst i _ _ hcu hp he
    | illegal w =>
      unfold State.illegalCmd
      split
      · exact fault _ hp
      · exact res _ _ hp
    | arg0 v => exact arg0 _ _ hp
    | arg1 v => exact arg1 _ _ hp
    | ignored => exact hp
    | read off => exact State.readReg_keeps off hp draws bus
    | badEvent => exact State.badEventWord_keeps hp (fault _ hp) (count _ hp)
    | ring k b d he => exact ring _ k b d hcu hp he
    | agent a he => exact agent _ a hcu hp he

end Sys2Proof.Machine
end

