-- ==== Sys2Proof/Laws/Retry.lean ====
section
/-!
SUPPORT. What a move can do to a class that awaits its retry (43_backoff_timers.md R430 to R437), said once:
what a submission answers, what the commands and the other moves leave alone, and what one move of a run does.
-/

namespace Sys2Proof.Machine

/-- The fields the retry of class `c` depends on. -/
abbrev State.retryView (s : State) (c : OpClass) : Bool × Bool × BoTimer × Bool × RetryArgs :=
  (s.init, s.fatal, s.bo.get c, s.retryEvt.get c, s.retryArgs.get c)

theorem State.awaitsRetry_congr {s t : State} {c : OpClass} (h : s.awaitsRetry c)
    (e : t.retryView c = s.retryView c) : t.awaitsRetry c := by
  simp only [State.retryView, Prod.mk.injEq] at e
  obtain ⟨e1, e2, e3, e4, e5⟩ := e
  obtain ⟨⟨a, b⟩, d, f⟩ := h
  exact ⟨⟨e1.trans a, e2.trans b⟩, by rw [e5]; exact d, by rw [e3, e4]; exact f⟩

/-! ## What a submission does -/

/-- A submission of class `c` either is accepted and in flight, or is rejected and awaits its retry, or is
turned away by the duty cycle; it touches no other class. -/
structure SubmitOutcome (s : State) (c : OpClass) (o : ResultCode × State) : Prop where
  other : ∀ d, d ≠ c → o.2.retryView d = s.retryView d
  flags : o.2.init = s.init ∧ o.2.fatal = s.fatal
  answer :
    (o.1 = .ok ∧ s.drawAccept.1 = true ∧ o.2.inflight.get c.slot = true) ∨
      (o.1 = .rejected ∧ s.drawAccept.1 = false ∧ (o.2.bo.get c).running = true ∧
        (o.2.retryArgs.get c).valid = true) ∨
      (o.1 = .dcBlocked ∧ o.2 = s ∧ c = .tx)

theorem State.drawAccept_fst {s t : State} (h : t.draws = s.draws) : t.drawAccept.1 = s.drawAccept.1 := by
  unfold State.drawAccept
  rw [h]
  split <;> rfl

theorem State.storeRetry_view {u : State} {c : OpClass} {d : Word} {a : RetryArgs} (hd : d ≠ 0)
    (ha : a.valid = true) :
    (∀ x, x ≠ c → ((u.boRequest c d).storeRetry c a).retryView x = u.retryView x) ∧
      (((u.boRequest c d).storeRetry c a).bo.get c).running = true ∧
      (((u.boRequest c d).storeRetry c a).retryArgs.get c).valid = true := by
  unfold State.boRequest State.storeRetry
  rw [if_neg hd]
  exact ⟨fun x h => by simp [h], by simp, by simpa using ha⟩

theorem State.clearBackoff_view {u : State} {c x : OpClass} (h : x ≠ c) :
    (u.clearBackoff c).retryView x = u.retryView x := by simp [State.clearBackoff, h]

theorem ne_zero_of_one_le {d : Word} (h : 1 ≤ d.toNat) : d ≠ 0 := by
  intro e
  rw [e] at h
  exact absurd h (by decide)

/-- From what the radio answered to what the submission leaves. -/
theorem SubmitOutcome.of_submit {s u v : State} {c : OpClass} {d : Word} {a : RetryArgs} {ok : Bool}
    (hok : ok = s.drawAccept.1) (hd : 1 ≤ d.toNat) (ha : a.valid = true)
    (hu : ∀ x, u.retryView x = s.retryView x) (hv : ∀ x, v.retryView x = s.retryView x)
    (hin : v.inflight.get c.slot = true) :
    SubmitOutcome s c
      (if ok then (.ok, v.clearBackoff c) else (.rejected, (u.boRequest c d).storeRetry c a)) := by
  have fu := hu c
  have fv := hv c
  simp only [State.retryView, Prod.mk.injEq] at fu fv
  cases ok with
  | true =>
    exact ⟨fun x h => (State.clearBackoff_view h).trans (hv x), ⟨fv.1, fv.2.1⟩,
      .inl ⟨rfl, hok.symm, hin⟩⟩
  | false =>
    have k := State.storeRetry_view (u := u) (c := c) (ne_zero_of_one_le hd) ha
    exact ⟨fun x h => (k.1 x h).trans (hu x), ⟨by simpa [State.storeRetry] using fu.1,
      by simpa [State.storeRetry] using fu.2.1⟩, .inr (.inl ⟨rfl, hok.symm, k.2⟩)⟩

theorem State.doSubmitRx_outcome (s : State) (ch : Half) (hc : s.cfg.admitted = true) :
    SubmitOutcome s .rx (s.doSubmitRx ch) := by
  rw [State.doSubmitRx_eq]
  refine .of_submit ?_ ?_ rfl (fun x => by simp) (fun x => by simp) ?_
  · rw [(State.submit_accept _ _ _ _).1]
    exact State.drawAccept_fst (by simp)
  · simp [Config.admitted] at hc ⊢
    omega
  · simp only [State.setProgrammed_fields, State.onAccepted_inflight, PerSlot.get_setAll, OpClass.slot]
    unfold State.rxChain
    split <;> simp

theorem State.doSubmitTx_outcome (s : State) (ch : Half) (f : BitVec 4) (a0 a1 : Word)
    (hc : s.cfg.admitted = true) : SubmitOutcome s .tx (s.doSubmitTx ch f a0 a1) := by
  rw [State.doSubmitTx_eq]
  split
  · refine .of_submit ?_ ?_ rfl (fun x => by simp) (fun x => by simp [State.setTxContext]) ?_
    · rw [(State.submit_accept _ _ _ _).1]
      exact State.drawAccept_fst (by simp)
    · simp [Config.admitted] at hc ⊢
      omega
    · have h : Slot.tx ∈ s.txChain ch (f.getLsbD 1) := by
        unfold State.txChain
        simp
      simp only [State.setTxContext, State.setProgrammed_fields, State.onAccepted_inflight, PerSlot.get_setAll,
        OpClass.slot, h, if_true]
  · exact ⟨fun _ _ => rfl, ⟨rfl, rfl⟩, .inr (.inr ⟨rfl, rfl, rfl⟩)⟩

theorem State.doSubmitNoop_outcome (s : State) (hc : s.cfg.admitted = true) :
    SubmitOutcome s .noop s.doSubmitNoop := by
  rw [State.doSubmitNoop_eq]
  refine .of_submit ?_ ?_ rfl (fun x => by simp) (fun x => by simp) ?_
  · rw [(State.submit_accept _ _ _ _).1]
    exact State.drawAccept_fst (by simp)
  · simp [Config.admitted] at hc ⊢
    omega
  · simp [PerSlot.get_setAll, OpClass.slot]

/-! ## What leaves a class alone -/

/-- The instructions that may change the retry of a class: INIT, the backoff requests, the submissions. -/
def touchesRetry : Instr → Prop
  | .init | .backoffReq _ | .backoffCancel _ | .submitRx _ | .submitTx _ _ _ | .submitNoop => True
  | _ => False

/-- The fields the retry engine depends on, of all classes. -/
abbrev State.retryFields (s : State) : Bool × Bool × PerClass BoTimer × PerClass Bool × PerClass RetryArgs :=
  (s.init, s.fatal, s.bo, s.retryEvt, s.retryArgs)

theorem State.retryView_of_fields {s t : State} (c : OpClass) (h : t.retryFields = s.retryFields) :
    t.retryView c = s.retryView c := by
  simp only [State.retryFields, Prod.mk.injEq] at h
  obtain ⟨e1, e2, e3, e4, e5⟩ := h
  simp [State.retryView, e1, e2, e3, e4, e5]

theorem exec_retryFields {i : Instr} {s t : State} (hr : s.ready) (hi : ¬touchesRetry i)
    (h : exec i s = .next t) : t.retryFields = s.retryFields := by
  obtain ⟨a, b⟩ := hr
  cases i
  case evtPreamble | evtFrameOk | evtBadCrc | evtBufFull | evtCmdDone | evtCmdStopped | evtCmdPreempted | evtTcFired =>
    all_goals
      cases h
      refine State.deliverEvent_keeps (P := fun u => u.retryFields = s.retryFields) _ _ rfl ?_ ?_ ?_
      · unfold State.raiseFault
        split <;> rfl
      · intro u hu
        simpa using hu
      · intro u x b _ hu _
        simpa using hu
  all_goals first | exact (hi trivial).elim | skip
  all_goals
    cases h
    simp [cmdStopAll, cmdUpdateTxPower, cmdSetupTc_eq, cmdDcRecord, cmdDcCheck, cmdDcAdvance, cmdSetRole, cmdSetPan,
      cmdSetShort, cmdSetExt, cmdSetFilterMode, State.guardCmd, State.writeArg0, State.writeArg1, State.unlinkCca, a, b]
  all_goals
    split <;> simp [State.applyPower, a, b]

/-- A CMD word decodes to no pseudo-instruction (30_encoding.md R201). -/
theorem decodeCmd_ne_backoffCancel {w : Word} {i : Instr} (h : decodeCmd w = .ok i) (sel : BitVec 4) :
    i ≠ .backoffCancel sel := by
  rw [decodeCmd_ok_iff] at h
  obtain ⟨r, hr, _, rfl⟩ := h
  have hm := List.mem_of_find?_eq_some hr
  simp only [cmdTable, List.mem_append, List.mem_cons, List.not_mem_nil, or_false, or_assoc] at hm
  rcases hm with h | h | h | h | h | h | h | h | h | h | h | h | h | h | h | h
  all_goals
    rw [h]
    intro e
    cases e

/-- An EVT word decodes to an event. -/
theorem decodeEvt_touchesRetry {w : Word} {i : Instr} (h : decodeEvt w = .ok i) : ¬touchesRetry i := by
  unfold decodeEvt at h
  split at h
  · cases h
  · cases he : eventInstr (handleField w) (eventField w) with
    | none => rw [he] at h; cases h
    | some k =>
      rw [he] at h
      cases h
      unfold eventInstr at he
      repeat' split at he
      all_goals cases he <;> exact id

/-- A move that is no CMD word which touches retries, no expiry and no retry changes none of the fields. -/
theorem step_retryFields {m : Move} {s t : State} (hr : s.ready) (h : step { s with sched := [m] } = .next t)
    (timer : ∀ c, m ≠ .agent (.boTimer c)) (retry : ∀ c, m ≠ .agent (.retry c))
    (cmd : ∀ w i, m = .regWrite 4 0x000 w → decodeCmd w = .ok i → ¬touchesRetry i) :
    t.retryFields = s.retryFields := by
  unfold step at h
  split at h
  swap
  · cases h
  dsimp only at h
  have hf : ({ s with sched := [] } : State).retryFields = s.retryFields := rfl
  have hu : ({ s with sched := [] } : State).ready := hr
  rw [← hf]
  generalize ({ s with sched := [] } : State) = u at *
  cases m with
  | regWrite width off v =>
    simp only [runMove, State.hostWrite, writeReg, cmdWrite] at h
    split at h
    · rename_i hw
      split at h
      · rename_i ho
        split at h
        · rename_i i hi
          refine exec_retryFields hu (cmd v i ?_ hi) h
          rw [hw.1, show off = 0x000 by apply BitVec.eq_of_toNat_eq; simpa using ho]
        · cases h
          simp [State.illegalCmd, hu.1]
      · split at h
        · cases h; rfl
        · split at h <;> cases h <;> rfl
    · cases h
  | regRead width off =>
    simp only [runMove, State.hostRead] at h
    split at h
    · cases h
      exact State.readReg_keeps (P := fun x => x.retryFields = u.retryFields) off.toNat rfl (fun _ _ h => h)
        (fun _ _ h => h)
    · cases h
  | event w =>
    simp only [runMove, eventWord] at h
    split at h
    · rename_i i hd
      exact exec_retryFields hu (decodeEvt_touchesRetry hd) h
    · cases h
      simp [State.badEventWord, State.guardEvt, hu.1, hu.2]
  | ringWrite k bytes done =>
    simp only [runMove, State.radioWrite] at h
    split at h <;> cases h
    rfl
  | agent a =>
    simp only [runMove, State.scheduledAgent] at h
    split at h <;> cases h
    cases a with
    | parser => simp [State.agentStep]
    | boTimer c => exact absurd rfl (timer c)
    | retry c => exact absurd rfl (retry c)
    | ackTimer => rfl

/-! ## What a command does to a class that awaits its retry -/

/-- A submission of the host: the class is left alone, or is its own and then succeeds or awaits its retry. -/
theorem submitResult_awaits {s : State} {c d : OpClass} {o : ResultCode × State} (hw : s.awaitsRetry c)
    (ho : SubmitOutcome s d o) :
    (submitResult o).retryView c = s.retryView c ∨
      (c = d ∧ ((submitResult o).res = 0x00000000 ∨ (submitResult o).awaitsRetry c)) := by
  by_cases e : c = d
  · subst e
    obtain h | h | h := ho.answer
    · exact .inr ⟨rfl, .inl (by rw [submitResult, h.1]; rfl)⟩
    · exact .inr ⟨rfl, .inr ⟨⟨ho.flags.1.trans hw.1.1, ho.flags.2.trans hw.1.2⟩, h.2.2.2, .inl h.2.2.1⟩⟩
    · exact .inl (by rw [submitResult, h.2.1]; rfl)
  · exact .inl (ho.other c e)

/-- The SEL value of a class is its number (30_encoding.md R154). -/
theorem classOfSel_eq {sel : BitVec 4} {c : OpClass} : classOfSel sel = some c → sel = classNumber c := by
  revert sel
  cases c <;> decide

/-- What a command does to a class that awaits its retry (R430, R437). -/
theorem exec_awaits {s t : State} {c : OpClass} {i : Instr} (hw : s.awaitsRetry c) (hc : s.cfg.admitted = true)
    (hi : ∀ sel, i ≠ .backoffCancel sel) (h : exec i s = .next t) :
    t.retryView c = s.retryView c ∨
      (i = .backoffReq (classNumber c) ∧ (s.arg0 = 0 ∨ t.awaitsRetry c)) ∨
      (submission c i ∧ (t.res = 0x00000000 ∨ t.awaitsRetry c)) ∨ (i = .init ∧ t.res ≠ 0x00000002) := by
  have ⟨hr, hv, _⟩ := hw
  have ⟨a, b⟩ := hr
  by_cases hp : touchesRetry i
  swap
  · exact .inl (State.retryView_of_fields c (exec_retryFields hr hp h))
  cases i
  case backoffCancel sel => exact absurd rfl (hi sel)
  case init =>
    have ht : t = cmdInit s := by cases h; rfl
    have hz : ∀ u : State, u.initialise.res = 0x00000000 := by
      intro u
      simp only [State.initialise, State.emitDisable]
      (repeat' split) <;> rfl
    rw [cmdInit_eq] at ht
    simp only [a, b] at ht
    split at ht
    · contradiction
    · split at ht
      · exact .inl (by rw [ht]; rfl)
      · refine .inr (.inr (.inr ⟨rfl, ?_⟩))
        split at ht
        · rw [ht, hz]; decide
        · split at ht
          · rw [ht, hz]; decide
          · rw [ht]; simp; decide
  case backoffReq sel =>
    cases h
    simp only [cmdBackoffReq, State.guardCmd_ready a b]
    split
    · exact .inl rfl
    · rename_i d hd
      have hs := classOfSel_eq hd
      by_cases e : c = d
      · subst e
        refine .inr (.inl ⟨by rw [hs], ?_⟩)
        by_cases z : s.arg0 = 0
        · exact .inl z
        · rw [State.boRequest, if_neg z]
          exact .inr ⟨⟨a, b⟩, hv, .inl (by simp)⟩
      · left
        simp only [State.boRequest]
        split <;> simp [e]
  case submitRx ch =>
    cases h
    simp only [cmdSubmitRx, State.guardCmd_ready a b]
    split
    · exact .inl rfl
    · split
      · exact .inl rfl
      · split
        · exact .inl rfl
        · exact (submitResult_awaits hw (s.doSubmitRx_outcome ch hc)).imp id
            fun ⟨e, k⟩ => .inr (.inl ⟨e ▸ ⟨ch, rfl⟩, k⟩)
  case submitTx ch x y =>
    cases h
    simp only [cmdSubmitTx, State.guardCmd_ready a b]
    split
    · exact .inl rfl
    · split
      · exact .inl rfl
      · exact (submitResult_awaits hw (s.doSubmitTx_outcome ch _ _ _ hc)).imp id
          fun ⟨e, k⟩ => .inr (.inl ⟨e ▸ ⟨ch, x, y, rfl⟩, k⟩)
  case submitNoop =>
    cases h
    simp only [cmdSubmitNoop, State.guardCmd_ready a b]
    split
    · exact .inl rfl
    · exact (submitResult_awaits hw (s.doSubmitNoop_outcome hc)).imp id fun ⟨e, k⟩ => .inr (.inl ⟨e ▸ rfl, k⟩)
  all_goals exact hp.elim

/-! ## Expiry and retry -/

/-- The move a schedule of one agent makes. -/
theorem step_agent {s t : State} {a : Agent} (h : step { s with sched := [.agent a] } = .next t) :
    s.enabled a = true ∧ t = ({ s with sched := [] } : State).agentStep a := by
  have hc := (step_cases h).1
  simp only [step] at h
  rw [if_pos hc] at h
  simp only [runMove, State.scheduledAgent] at h
  split at h
  · rename_i he
    cases h
    exact ⟨he, rfl⟩
  · cases h

/-- A retry of another class leaves the class alone. -/
theorem State.retryStep_other {s : State} {c d : OpClass} (hc : s.cfg.admitted = true) (h : c ≠ d) :
    (s.retryStep d).retryView c = s.retryView c := by
  have out : ∀ (u : State) (o : ResultCode), u.retryView c = s.retryView c →
      (u.retryOutcome d o).retryView c = s.retryView c := by
    intro u o hu
    cases o <;> simp only [State.retryOutcome] <;> first | exact hu | (rw [← hu]; simp [State.dropRetry, h])
  have h0 : ({ s with retryEvt := s.retryEvt.set d false } : State).retryView c = s.retryView c := by simp [h]
  have hc' : ({ s with retryEvt := s.retryEvt.set d false } : State).cfg.admitted = true := hc
  rw [State.retryStep_eq]
  dsimp only
  split
  · apply out
    rw [← h0]
    unfold State.retrySubmit
    cases d <;> dsimp only <;> (repeat' split)
    any_goals rfl
    · exact (State.doSubmitRx_outcome _ _ hc').other c h
    · exact (State.doSubmitTx_outcome _ _ _ _ _ hc').other c h
    · exact (State.doSubmitNoop_outcome _ hc').other c h
  · exact h0

/-- A retry of a class that is not busy: accepted and in flight, or rejected and awaiting the next (R436). -/
theorem State.retryStep_clear {s : State} {c : OpClass} (hc : s.cfg.admitted = true) (hr : s.ready)
    (hv : (s.retryArgs.get c).valid = true) (hclear : s.retryClear c) :
    (s.drawAccept.1 = true ∧ (s.retryStep c).inflight.get c.slot = true) ∨
      (s.drawAccept.1 = false ∧ (s.retryStep c).awaitsRetry c) := by
  have out : ∀ {u : State} {o : ResultCode × State}, u.ready → u.drawAccept.1 = s.drawAccept.1 →
      SubmitOutcome u c o → o.1 ≠ .dcBlocked →
      (s.drawAccept.1 = true ∧ (o.2.retryOutcome c o.1).inflight.get c.slot = true) ∨
        (s.drawAccept.1 = false ∧ (o.2.retryOutcome c o.1).awaitsRetry c) := by
    intro u o hu hd ho hn
    obtain h | h | h := ho.answer
    · exact .inl (by rw [h.1]; exact ⟨hd ▸ h.2.1, h.2.2⟩)
    · exact .inr (by
        rw [h.1]
        exact ⟨hd ▸ h.2.1, ⟨ho.flags.1.trans hu.1, ho.flags.2.trans hu.2⟩, h.2.2.2, .inl h.2.2.1⟩)
    · exact absurd h.1 hn
  have ha : ({ s with retryEvt := s.retryEvt.set c false } : State).drawAccept.1 = s.drawAccept.1 :=
    State.drawAccept_fst rfl
  have hr' : ({ s with retryEvt := s.retryEvt.set c false } : State).ready := hr
  have hc' : ({ s with retryEvt := s.retryEvt.set c false } : State).cfg.admitted = true := hc
  rw [State.retryStep_eq]
  dsimp only
  rw [if_pos hv]
  unfold State.retrySubmit
  cases c <;> dsimp only
  · rw [if_neg (by simp [hclear.1]), if_neg (by simp [hclear.2])]
    refine out hr' ha (State.doSubmitRx_outcome _ _ hc') ?_
    rw [State.doSubmitRx_eq]
    dsimp only
    split <;> simp
  · rw [if_neg (by simp [hclear.1, hclear.2.1])]
    refine out hr' ha (State.doSubmitTx_outcome _ _ _ _ _ hc') ?_
    rw [State.doSubmitTx_eq, if_pos (by exact hclear.2.2)]
    dsimp only
    split <;> simp
  · rw [if_neg (by simp [show s.inflight.noop = false from hclear])]
    refine out hr' ha (State.doSubmitNoop_outcome _ hc') ?_
    rw [State.doSubmitNoop_eq]
    dsimp only
    split <;> simp

/-! ## One move of a run -/

/-- The step of a move of a valid run. -/
theorem Run.valid_step {r : Run} (hv : r.valid) {n : Nat} {m : Move} (hm : r.move n = some m) :
    step { r.state n with sched := [m] } = .next (r.state (n + 1)) := by
  have h := hv n
  rwa [hm] at h

/-- Where nothing moves, the state stays. -/
theorem Run.valid_stay {r : Run} (hv : r.valid) {n : Nat} (hm : r.move n = none) :
    r.state (n + 1) = r.state n := by
  have h := hv n
  rwa [hm] at h

/-- What one move of a run does to a class that awaits its retry: it retries, the host settles it, or it awaits
its retry still; and then the host armed it again, or a backoff that ran runs on or has expired, and an expiry
stays for the retry to consume (R430 to R437). -/
theorem Run.awaits_step {r : Run} {c : OpClass} (hv : r.valid) (n : Nat) (hw : (r.state n).awaitsRetry c) :
    r.retries n c ∨ r.settles n c ∨
      ((r.state (n + 1)).awaitsRetry c ∧
        (r.rearms n c ∨
          (((r.state n).retryEvt.get c = true → (r.state (n + 1)).retryEvt.get c = true) ∧
            (((r.state n).bo.get c).running = true →
              (((r.state (n + 1)).bo.get c).running = true ∧ r.move n ≠ some (.agent (.boTimer c))) ∨
                (r.state (n + 1)).retryEvt.get c = true)))) := by
  have same : r.move n ≠ some (.agent (.boTimer c)) →
      (r.state (n + 1)).retryView c = (r.state n).retryView c →
      (r.state (n + 1)).awaitsRetry c ∧
        (r.rearms n c ∨
          (((r.state n).retryEvt.get c = true → (r.state (n + 1)).retryEvt.get c = true) ∧
            (((r.state n).bo.get c).running = true →
              (((r.state (n + 1)).bo.get c).running = true ∧ r.move n ≠ some (.agent (.boTimer c))) ∨
                (r.state (n + 1)).retryEvt.get c = true))) := by
    intro hm e
    refine ⟨State.awaitsRetry_congr hw e, .inr ?_⟩
    simp only [State.retryView, Prod.mk.injEq] at e
    rw [e.2.2.2.1, e.2.2.1]
    exact ⟨id, fun h => .inl ⟨h, hm⟩⟩
  cases hm : r.move n with
  | none =>
    rw [← hm]
    exact .inr (.inr (same (by rw [hm]; simp) (by rw [Run.valid_stay hv hm])))
  | some m =>
    rw [← hm]
    have hs := Run.valid_step hv hm
    have hc : (r.state n).cfg.admitted = true := by
      have h := (step_cases hs).1
      exact h
    by_cases hb : ∃ d, m = .agent (.boTimer d)
    · obtain ⟨d, rfl⟩ := hb
      obtain ⟨_, ht⟩ := step_agent hs
      right; right
      by_cases e : c = d
      · subst e
        have hb' : (r.state (n + 1)).retryEvt.get c = true := by
          rw [ht]
          simp [State.agentStep, State.boExpire]
        exact ⟨⟨by rw [ht]; exact hw.1, by rw [ht]; exact hw.2.1, .inr hb'⟩, .inr ⟨fun _ => hb', fun _ => .inr hb'⟩⟩
      · refine same (by rw [hm]; intro q; cases q; exact e rfl) ?_
        rw [ht]
        simp [State.agentStep, State.boExpire, e]
    by_cases hrt : ∃ d, m = .agent (.retry d)
    · obtain ⟨d, rfl⟩ := hrt
      obtain ⟨_, ht⟩ := step_agent hs
      by_cases e : c = d
      · subst e
        exact .inl ⟨hm, hw.2.1⟩
      · exact .inr (.inr (same (by rw [hm]; simp) (by rw [ht]; exact State.retryStep_other hc e)))
    by_cases hcmd : ∃ w i, m = .regWrite 4 0x000 w ∧ decodeCmd w = .ok i
    · obtain ⟨w, i, rfl, hi⟩ := hcmd
      have hx : exec i { r.state n with sched := [] } = .next (r.state (n + 1)) := by
        simp only [step] at hs
        rw [if_pos hc] at hs
        simp only [runMove, State.hostWrite, writeReg, cmdWrite] at hs
        split at hs
        · simpa [hi] using hs
        · cases hs
      have hcm : r.commands n i := ⟨w, hm, hi⟩
      obtain h | ⟨rfl, h | h⟩ | ⟨hsub, h | h⟩ | ⟨rfl, h⟩ :=
        exec_awaits (c := c) (s := { r.state n with sched := [] }) hw hc (decodeCmd_ne_backoffCancel hi) hx
      · exact .inr (.inr (same (by rw [hm]; simp) h))
      · exact .inr (.inl (.inl ⟨hcm, h⟩))
      · exact .inr (.inr ⟨h, .inl (.inl hcm)⟩)
      · exact .inr (.inl (.inr (.inl ⟨i, hsub, hcm, h⟩)))
      · exact .inr (.inr ⟨h, .inl (.inr ⟨i, hsub, hcm⟩)⟩)
      · exact .inr (.inl (.inr (.inr ⟨hcm, h⟩)))
    · refine .inr (.inr (same (by rw [hm]; intro q; cases q; exact hb ⟨c, rfl⟩) ?_))
      refine State.retryView_of_fields c (step_retryFields hw.1 hs ?_ ?_ ?_)
      · exact fun d q => hb ⟨d, q⟩
      · exact fun d q => hrt ⟨d, q⟩
      · exact fun w i q hd => absurd ⟨w, i, q, hd⟩ hcmd

end Sys2Proof.Machine
end

