-- ==== Sys2Proof/Tests/Slice0.lean ====
section
/-!
SUPPORT. The model's own tests: well-formedness, decoding, one or two steps of every instruction and of every
agent, and for every statement that has hypotheses a state that meets them.
Expected values come from spec/95_test_vectors.md (the vector is named in each comment), computed there by hand
from the rules. Configuration CFG0 throughout.
-/

namespace Sys2Proof.Tests

open Sys2Proof Sys2Proof.Machine

/-! ## States and helpers -/

/-- The state an outcome goes on with. -/
def next? (o : Host.Outcome State Fault Refusal) : Option State :=
  match o with
  | .next t => some t
  | .fault _ => none
  | .refused _ => none

/-- What `f` sees after an instruction; none if it does not complete. -/
def after {α : Type} (i : Instr) (s : State) (f : State → α) : Option α := (next? (exec i s)).map f

/-- What `f` sees after one step; none if there is none. -/
def afterStep {α : Type} (s : State) (f : State → α) : Option α := (next? (step s)).map f

/-- PWR. -/
def pwr : State := State.powerOn Config.vectors

/-- S0, the state after a successful INIT. -/
def boot : State := { pwr with init := true, ringAllocated := true }

/-- The fatal state after a failed INIT. -/
def dead : State := { pwr with init := true, fatal := true }

/-- RX in flight on channel 3 (vector VS1), its messages left out. -/
def rxUp : State :=
  { boot with
    cntTotal := 1
    cntRx := 1
    inflight := { PerSlot.all false with fsRx := true, rx := true }
    progChannel := 3
    progValid := true }

/-- TX in flight on top of it (vector VS4). -/
def txUp : State :=
  { rxUp with
    cntTotal := 2
    inflight := { rxUp.inflight with tx := true }
    txSeq := 7
    txDur := 1000 }

/-- The reference frame F0 of 95_test_vectors.md. -/
def frame0 : List Byte :=
  [0x10, 0x1F, 0x61, 0xA8, 0x5A, 0x34, 0x12, 0x01, 0x00, 0x02, 0x00] ++
  [0, 1, 2, 3, 4, 5, 6, 7, 8, 9, 10, 11, 12, 13, 14, 15, 16, 17, 18, 19] ++ [0xC4, 0x00, 0x10, 0x00, 0x00]

/-- RX0 with the bytes `b` in entry 0: a started frame, PAN 0x1234, short address 1. -/
def started (b : List Byte) (full : Bool) : State :=
  { rxUp with rxState := .started, frameHandle := 2, fPan := 0x1234, fShort := 1 }.ringWrite 0 b full

/-- The partial frame the header of F0 allocates (vector VF1). -/
def frame0Pf : PartialFrame :=
  { PartialFrame.empty with
    valid := true
    phrLen := 31
    fcsLen := 2
    mpduLen := 29
    fcf := 0xA861
    seqPresent := true
    seq := 0x5A
    dstMode := 2
    srcMode := 2
    dstPanPresent := true
    addrLen := 6
    mhrBase := 9
    buf := List.replicate 29 0 }

/-- F0 in the ADDR state. -/
def addressed : State := { started frame0 true with rxState := .addr, pf := frame0Pf }

/-- F0 in the SECHDR state, with a security header of level 5, key-identifier mode 1 (vector VH1). -/
def secured : State :=
  { rxUp with
    rxState := .secHdr
    frameHandle := 2
    pf := { frame0Pf with fcf := 0xA869 } }.ringWrite 0
      ([0x10, 0x1F, 0x69, 0xA8, 0x5A, 0x34, 0x12, 0x01, 0x00, 0x02, 0x00, 0x0D, 1, 0, 0, 0, 7] ++
        List.replicate 14 9 ++ [0xC4, 0x00, 0x10, 0x00, 0x00]) true

/-- F0 in the PAYLOAD state. -/
def copied : State := { started frame0 true with rxState := .payload, pf := { frame0Pf with mhrLen := 9 } }

/-- F0 in the TRAILER state. -/
def trailing : State :=
  { started frame0 true with rxState := .trailer, pf := { frame0Pf with mhrLen := 9, payloadLen := 20 } }

/-- A state whose next move is `m`. -/
def moving (s : State) (m : Move) : State := { s with sched := [m] }

/-- The same with the radio's next answer supplied. -/
def answered (s : State) (a : Bool) : State := { s with draws := { s.draws with accept := [a] } }

theorem boot_ready : boot.ready := ⟨rfl, rfl⟩
theorem rxUp_ready : rxUp.ready := ⟨rfl, rfl⟩
theorem txUp_ready : txUp.ready := ⟨rfl, rfl⟩

/-! ## Well-formedness -/

theorem test_wf_handles_refused :
    [Instr.evtPreamble 10 0, .evtFrameOk 10 0, .evtBadCrc 10 0, .evtBufFull 10 0, .evtCmdDone 10 0,
      .evtCmdStopped 10 0, .evtCmdPreempted 10 0, .evtTcFired 10].all (fun i => !i.wellFormed) = true := by
  decide

theorem test_wf_classes_refused :
    Instr.wellFormed (.backoffReq 3) = false ∧ Instr.wellFormed (.backoffCancel 3) = false := by decide

theorem test_wf_accepted :
    Instr.wellFormed (.evtTcFired 9) = true ∧ Instr.wellFormed (.backoffReq 2) = true ∧
      Instr.wellFormed .init = true := by decide

/-! ## Decoding: words written out from 30_encoding.md R154, R159 and R160 -/

theorem test_decode_init : decodeCmd 0x00000001 = .ok .init := by decide
theorem test_decode_submitRx : decodeCmd 0x00030010 = .ok (.submitRx 3) := by decide
/-- FLG bit 0 ACKREQ, FLG bit 1 CCA (vectors VS4, VS5). -/
theorem test_decode_submitTx :
    decodeCmd 0x00031011 = .ok (.submitTx 3 true false) ∧ decodeCmd 0x00042011 = .ok (.submitTx 4 false true) := by
  decide
theorem test_decode_submitNoop : decodeCmd 0x00000012 = .ok .submitNoop := by decide
theorem test_decode_stopAll :
    decodeCmd 0x00000013 = .ok (.stopAll false) ∧ decodeCmd 0x00001013 = .ok (.stopAll true) := by decide
theorem test_decode_updateTxPower : decodeCmd 0x00F00014 = .ok (.updateTxPower 0x00F0) := by decide
theorem test_decode_setupTc :
    decodeCmd 0x00050015 = .ok (.setupTc .a 5) ∧ decodeCmd 0x00070115 = .ok (.setupTc .b 7) := by decide
theorem test_decode_dutyCycle :
    decodeCmd 0x00000020 = .ok .dcRecord ∧ decodeCmd 0x00000021 = .ok .dcCheck ∧
      decodeCmd 0x00000022 = .ok .dcAdvance := by decide
/-- FLG bit 0 PAN_COORD, FLG bit 1 BEACON_EN (vectors VY12, VY13). -/
theorem test_decode_setRole :
    decodeCmd 0x00003023 = .ok (.setRole true true) ∧ decodeCmd 0x00002023 = .ok (.setRole false true) := by
  decide
theorem test_decode_backoffReq :
    decodeCmd 0x00000130 = .ok (.backoffReq 1) ∧ decodeCmd 0x00000F30 = .ok (.backoffReq 15) := by decide
theorem test_decode_filter :
    decodeCmd 0x12340040 = .ok (.setPan 0x1234) ∧ decodeCmd 0x00010041 = .ok (.setShort 1) ∧
      decodeCmd 0x00000042 = .ok .setExt := by decide
/-- FLG bits 0 to 2 PROMISC, ENHACK, ACKFP (vectors VG4, VA11, VA7). -/
theorem test_decode_setFilterMode :
    decodeCmd 0x000F4043 = .ok (.setFilterMode 0x0F false false true) ∧
      decodeCmd 0x000F2043 = .ok (.setFilterMode 0x0F false true false) ∧
      decodeCmd 0x00FF1043 = .ok (.setFilterMode 0xFF true false false) := by decide

/-- Vectors VE1 to VE15, VE18 to VE20 and VE23: no command. -/
theorem test_decode_illegal :
    [0x00000000, 0x00000002, 0x000000FF, 0x00000044, 0x00000101, 0x00010012, 0x00034011, 0x00000111, 0x00002013,
      0x00011013, 0x00050215, 0x00051015, 0x00000120, 0x00004023, 0x00001030, 0x00000142, 0x000F8043, 0x010F0043,
      0x00077013].all (fun w : Word => match decodeCmd w with | .ok _ => false | .error _ => true) = true := by
  decide

theorem test_decode_receive_events :
    decodeEvt 0x00000102 = .ok (.evtPreamble 2 0) ∧ decodeEvt 0x00000202 = .ok (.evtFrameOk 2 0) ∧
      decodeEvt 0x00000402 = .ok (.evtBadCrc 2 0) ∧ decodeEvt 0x00000802 = .ok (.evtBufFull 2 0) := by decide
theorem test_decode_end_events :
    decodeEvt 0x00001005 = .ok (.evtCmdDone 5 0) ∧ decodeEvt 0x00002002 = .ok (.evtCmdStopped 2 0) ∧
      decodeEvt 0x00004002 = .ok (.evtCmdPreempted 2 0) ∧ decodeEvt 0x00008008 = .ok (.evtTcFired 8) := by decide
/-- Several bits in one word (vectors VX9, VX10): the lowest names the instruction, the rest are `later`. -/
theorem test_decode_several_events :
    decodeEvt 0x0000F002 = .ok (.evtCmdDone 2 0b111) ∧ decodeEvt 0x00000302 = .ok (.evtPreamble 2 1) := by decide
/-- Vectors VX1 and VX3. -/
theorem test_decode_bad_events :
    decodeEvt 0x00010102 = .error .eventReservedBits ∧ decodeEvt 0x00000002 = .error .noEventBit := by decide

/-- The pseudo-instructions' words (30_encoding.md R201; programs P4, P8; vectors VG1, VG2, VG5). -/
theorem test_encode_pseudo :
    encode (.backoffCancel 1) = [0x00000130] ∧ encode .stopNow = [0x00000013] ∧
      encode .stopGraceful = [0x00001013] ∧ encode (.tcRearm .a 6 50) = [0x00060015] ∧
      encode (.setAddr 0x1234 1 0) = [0x12340040, 0x00010041, 0x00000042] ∧
      encode .promiscOn = [0x00FF1043] := by decide

/-- A word of the opcode table at its port. -/
theorem test_decodeTableWord :
    decodeTableWord 32 0x00050015 = some (.setupTc .a 5) ∧ decodeTableWord 32 0x00008009 = some (.evtTcFired 9) ∧
      decodeTableWord 32 0x00000044 = none := by decide

/-- The word placed where the next step takes its instruction runs first after reset: INIT, the ring
allocated (vector VI1). -/
theorem test_fetch_init :
    afterStep ({ State.reset with draws := { Draws.none with ringAllocOk := [true] } }.withFetchWord 32 1)
      (fun t => (t.init, t.fatal, t.res)) = some (true, false, 0) := by decide

/-! ## Commands -/

/-- VI2. -/
theorem test_init_fails :
    after .init { pwr with draws := { Draws.none with ringAllocOk := [false] } }
      (fun t => (t.init, t.fatal, t.res, t.regStatus)) = some (true, true, 8, 0x3) := by decide
/-- VI8: an armed channel is disabled. -/
theorem test_init_again :
    after .init { boot with tc := { boot.tc with b := ⟨true, 9, 40⟩ }, fPan := 7 }
      (fun t => (t.out, t.tc.b.armed, t.fPan, t.res)) = some ([.disableTc .b], false, 0xFFFF, 0) := by decide

/-- VS1. -/
theorem test_submitRx_accepted :
    after (.submitRx 3) (answered boot true)
      (fun t => (t.out, t.regCounters, t.regSlots, t.desc.rx.trigger)) =
      some ([.submit .rx .fsRx 0x7F none, .powerVote .hold], 0x0101, 0x006, .relPrev) := by decide
/-- VS3. -/
theorem test_submitRx_rejected :
    after (.submitRx 3) (answered boot false) (fun t => (t.res, t.regBackoff, t.bo.rx.delay, t.regCounters)) =
      some (4, 0x101, 1000, 0) := by decide

/-- VS5: FS_TX, CCA and TX. -/
theorem test_submitTx_cca :
    after (.submitTx 4 false true) (answered { rxUp with arg0 := 500, arg1 := 0x00140109 } true)
      (fun t => (t.out, t.regSlots, regDescCtl .cca t.desc.cca 0, t.desc.tx.param0)) =
      some ([.submit .tx .fsTx 0x70 none], 0x03E, 0x2544, 0x00001401) := by decide
/-- VS14: blocked by the duty cycle, no backoff. -/
theorem test_submitTx_blocked :
    after (.submitTx 3 false false)
      { boot with arg0 := 500, arg1 := 0x000A0007, dcTotal := 2500, dcRecorded := true }
      (fun t => (t.res, t.out, t.regBackoff)) = some (5, [], 0) := by decide

/-- VS17. -/
theorem test_submitNoop_accepted :
    after .submitNoop (answered boot true) (fun t => (t.out, t.regSlots, t.regCounters)) =
      some ([.submit .noop .noop 0x70 none, .powerVote .hold], 0x080, 0x0001) := by decide
/-- VS19. -/
theorem test_submitNoop_rejected :
    after .submitNoop (answered boot false) (fun t => (t.res, t.regBackoff, t.bo.noop.delay)) =
      some (4, 0x404, 1000) := by decide

/-- VT2: CCA's successor is cut off. -/
theorem test_stopAll_graceful :
    after (.stopAll true) { boot with desc := { boot.desc with cca := { boot.desc.cca with next := some .tx } } }
      (fun t => (t.out, t.desc.cca.next)) = some ([.flushAll true], none) := by decide
/-- VT4: the frame is discarded, its ACK aborted. -/
theorem test_stopAll_frame :
    after (.stopAll false) { copied with ackQueued := true, pf := { copied.pf with ackArmed := true } }
      (fun t => (t.out, t.regRxFsm, t.ackQueued)) =
      some ([.flushAll false, .abort .ack, .flushEntry 0], 0x01000200, false) := by decide

/-- VT5. -/
theorem test_updateTxPower_now :
    after (.updateTxPower 0xF0) boot (fun t => (t.out, t.res, t.txPowerCur, t.txPowerCurValid)) =
      some ([.setTxPower 0xF0], 0, 0xF0, true) := by decide
/-- VT7. -/
theorem test_updateTxPower_deferred :
    after (.updateTxPower 0x11) txUp (fun t => (t.out, t.res, t.txPowerPend)) = some ([], 1, 0x11) := by decide

/-- VC2: disabled before it is armed again. -/
theorem test_setupTc_rearm :
    after (.setupTc .a 6)
      { boot with arg0 := 50, tc := { boot.tc with a := ⟨true, 5, 1100⟩ }, draws := { Draws.none with ratNow := [1010] } }
      (fun t => t.out) = some [.disableTc .a, .armTc .a 6 1060] := by decide
/-- VC3: the deadline wraps. -/
theorem test_setupTc_wraps :
    after (.setupTc .b 7) { boot with arg0 := 0x20, draws := { Draws.none with ratNow := [0xFFFFFFF0] } }
      (fun t => (t.out, regTcCtl t.tc.b, t.tc.a.armed)) = some ([.armTc .b 7 0x10], 0x00070001, false) := by decide

/-- VY4: two thresholds in one record, one notification. -/
theorem test_dcRecord :
    after .dcRecord { boot with arg0 := 2500 } (fun t => (t.out, t.regDcState, t.dcTotal)) =
      some ([.dcModeChanged .critical], 0x006, 2500) := by decide
/-- VY7: the total would overflow. -/
theorem test_dcRecord_overflow :
    after .dcRecord { boot with arg0 := 0x100, dcTotal := 0xFFFFFF00, dcRecorded := true }
      (fun t => (t.res, t.dcTotal)) = some (6, 0xFFFFFF00) := by decide
/-- VY3: at the threshold is not below it. -/
theorem test_dcCheck :
    after .dcCheck { boot with arg0 := 2999, dcRecorded := true } (fun t => t.res) = some 0x100 ∧
      after .dcCheck { boot with arg0 := 3000, dcRecorded := true } (fun t => t.res) = some 0 := by decide
/-- P3 line 10: bucket 0 is evicted and the mode falls two steps. -/
theorem test_dcAdvance :
    after .dcAdvance
      { boot with dcTotal := 2200, dcBucket := [2100, 100, 0, 0], dcCur := 3, dcMode := .critical, dcRecorded := true }
      (fun t => (t.out, t.dcTotal, t.regDcState)) = some ([.dcModeChanged .normal], 100, 0x004) := by decide
/-- VY14: the role's thresholds raise the mode of an empty window at the next advance. -/
theorem test_dcAdvance_role :
    after .dcAdvance { boot with panCoord := true, beaconEn := true, dcBeacon := 2500 }
      (fun t => (t.out, t.regDcState)) = some ([.dcModeChanged .critical], 0x102) := by decide
/-- VG7. -/
theorem test_setRole :
    after (.setRole true true) { boot with arg0 := 500 } (fun t => (t.panCoord, t.beaconEn, t.dcBeacon, t.out)) =
      some (true, true, 500, []) := by decide

/-- VK8: arming again drops the expiry not yet consumed. -/
theorem test_backoffReq :
    after (.backoffReq 1) { boot with arg0 := 300, retryEvt := { boot.retryEvt with tx := true } }
      (fun t => (t.bo.tx, t.retryEvt.tx)) = some (⟨true, 300⟩, false) := by decide
/-- VE16. -/
theorem test_backoffReq_class :
    after (.backoffReq 3) { boot with arg0 := 300 } (fun t => (t.res, t.bo)) = some (6, boot.bo) := by decide

/-- VG1, VG2. -/
theorem test_setPan : after (.setPan 0x1234) boot (fun t => (t.fPan, t.fShort)) = some (0x1234, 0xFFFF) := by decide
theorem test_setShort : after (.setShort 1) boot (fun t => (t.fPan, t.fShort)) = some (0xFFFF, 1) := by decide
/-- VG3. -/
theorem test_setExt :
    after .setExt { boot with arg0 := 0x89ABCDEF, arg1 := 0x01234567 } (fun t => t.fExt) =
      some 0x0123456789ABCDEF := by decide
/-- VG4, VA11. -/
theorem test_setFilterMode :
    after (.setFilterMode 0x0F false false true) boot (fun t => t.regFilterMode) = some 0x40F ∧
      after (.setFilterMode 0x0F false true false) boot (fun t => t.regFilterMode) = some 0x20F := by decide

/-- VZ1: before INIT the fault is recorded and RES stays. -/
theorem test_uninit :
    after (.submitRx 3) { pwr with res := 5 } (fun t => (t.regStatus, t.res)) = some (0x8, 5) := by decide
/-- VI4. -/
theorem test_fatal : after .submitNoop dead (fun t => (t.res, t.out)) = some (8, []) := by decide

/-! ## Pseudo-instructions (30_encoding.md R201) -/

/-- VK2. -/
theorem test_backoffCancel :
    after (.backoffCancel 1) { boot with arg0 := 9, bo := { boot.bo with tx := ⟨true, 250⟩ } }
      (fun t => (t.bo.tx, t.arg0)) = some (⟨false, 250⟩, 0) := by decide
theorem test_stopNow : after .stopNow boot (fun t => t.out) = some [.flushAll false] := by decide
theorem test_stopGraceful : after .stopGraceful boot (fun t => t.out) = some [.flushAll true] := by decide
/-- P4 line 2. -/
theorem test_tcRearm :
    after (.tcRearm .a 6 50)
      { boot with tc := { boot.tc with a := ⟨true, 5, 1100⟩ }, draws := { Draws.none with ratNow := [1010] } }
      (fun t => (t.out, t.tc.a.deadline)) = some ([.disableTc .a, .armTc .a 6 1060], 0x424) := by decide
theorem test_setAddr :
    after (.setAddr 0x1234 1 0x0123456789ABCDEF) boot (fun t => (t.fPan, t.fShort, t.fExt, t.arg0, t.arg1)) =
      some (0x1234, 1, 0x0123456789ABCDEF, 0x89ABCDEF, 0x01234567) := by decide
/-- VG5. -/
theorem test_promiscOn : after .promiscOn boot (fun t => t.regFilterMode) = some 0x1FF := by decide

/-! ## Events -/

/-- RX0, and VB9. -/
theorem test_evtPreamble :
    after (.evtPreamble 2 0) rxUp (fun t => t.regRxFsm) = some 0x00000201 ∧
      after (.evtPreamble 2 0) boot (fun t => t.diag.get 16) = some 1 := by decide
/-- VX10: PREAMBLE and FRAME_OK in one word, mid-decode. -/
theorem test_evtPreamble_frameOk :
    after (.evtPreamble 2 1) { rxUp with rxState := .started, frameHandle := 2 }
      (fun t => (t.out, t.diag.get 15, t.diag.get 16, t.diag.get 1, t.regRxFsm)) =
      some ([.flushEntry 0, .flushEntry 1], 1, 1, 1, 0x00010200) := by decide
/-- P1 line 10. -/
theorem test_evtFrameOk :
    after (.evtFrameOk 2 0) trailing (fun t => (t.regRxFsm, t.out.length, t.entry 0, t.pf.valid)) =
      some (0x01000200, 2, ⟨.pending, 0⟩, false) := by decide
/-- VD11. -/
theorem test_evtFrameOk_halted :
    after (.evtFrameOk 2 0) { rxUp with rxState := .halted } (fun t => (t.rxState, t.out, t.diag.get 16)) =
      some (.idle, [], 0) := by decide
/-- P6 line 10, VB3. -/
theorem test_evtBadCrc :
    after (.evtBadCrc 2 0) { copied with ackQueued := true, pf := { copied.pf with ackArmed := true } }
      (fun t => (t.out, t.diag.get 10, t.rxState)) = some ([.abort .ack, .flushEntry 0], 1, .idle) ∧
      after (.evtBadCrc 2 0) rxUp (fun t => t.diag.get 16) = some 1 := by decide
/-- VB1, VB2. -/
theorem test_evtBufFull :
    after (.evtBufFull 2 0) addressed (fun t => (t.out, t.diag.get 11, t.regSlots)) =
      some ([.flushEntry 0], 1, 0x006) ∧
      after (.evtBufFull 2 0) rxUp (fun t => (t.diag.get 11, t.diag.get 16)) = some (1, 0) := by decide
/-- VT8: the record, then the pending power. -/
theorem test_evtCmdDone_tx :
    after (.evtCmdDone 5 0)
      { txUp with
        txPowerPend := 0x11
        txPowerPendValid := true
        draws := { Draws.none with members := [⟨1, false⟩] } }
      (fun t => (t.out, t.dcTotal, t.regCounters)) =
      some ([.dcModeChanged .limited, .setTxPower 0x11], 1000, 0x0101) := by decide
/-- VX9: bits 12 to 15 in one word. -/
theorem test_evtCmdDone_several :
    after (.evtCmdDone 2 7) { rxUp with rxState := .started, draws := { Draws.none with members := [⟨2, false⟩] } }
      (fun t => (t.out, t.diag.get 16, t.diag.get 15, t.regCounters)) =
      some ([.powerVote .allow, .flushEntry 0], 3, 1, 0) := by decide
/-- VS2: FS_RX DONE, RX ERROR. -/
theorem test_evtCmdStopped :
    after (.evtCmdStopped 2 0) { rxUp with draws := { Draws.none with members := [⟨1, true⟩] } }
      (fun t => (t.out, t.desc.fsRx.status, t.desc.rx.status, t.regSlots)) =
      some ([.powerVote .allow], .done, .error, 0) := by decide
/-- VT14, and a handle above 9 (VX2). -/
theorem test_evtCmdPreempted :
    after (.evtCmdPreempted 2 0) { rxUp with draws := { Draws.none with members := [⟨0, false⟩] } }
      (fun t => (t.regCounters, t.rxState)) = some (0, .idle) ∧
      after (.evtCmdPreempted 10 0) rxUp (fun t => (t.diag.get 16, t.regSlots)) = some (1, 0x006) := by decide
/-- VC5, VC8. -/
theorem test_evtTcFired :
    after (.evtTcFired 8) { boot with tc := { boot.tc with a := ⟨true, 5, 1100⟩ } } (fun t => (t.out, t.tc.a)) =
      some ([.timerCallback .a 5], ⟨false, 5, 1100⟩) ∧
      after (.evtTcFired 9) boot (fun t => t.diag.get 16) = some 1 := by decide

/-! ## Internal agents -/

/-- VF1. -/
theorem test_hdrStep :
    ({ started frame0 true with draws := { Draws.none with allocOk := [true] } }.hdrStep).pf = frame0Pf := by decide
/-- VF12: the addressing mode is checked before security. -/
theorem test_hdrStep_order :
    ((started [0x10, 0x1F, 0x98, 0x61, 0x5A] true).hdrStep.diag.get 3,
      (started [0x90, 0xFF, 0x98, 0x61, 0x5A] true).hdrStep.diag.get 0) = (1, 1) := by decide
/-- VA1. -/
theorem test_addrStep :
    (fun t : State => (t.out, t.desc.ack.param1, t.regTxCtx, t.pf.dstPan, t.pf.srcAddr, t.rxState))
      (answered { addressed with draws := { Draws.none with ackStart := [0x2000] } } true).addrStep =
      ([.submit .ack .ack 0x70 (some 0x2000)], 0x005A2002, 0x02000000, 0x1234, 2, .payload) := by decide
/-- VA2. -/
theorem test_addrStep_filtered :
    (fun t : State => (t.out, t.diag.get 6, t.rxState)) { addressed with fPan := 0x4321 }.addrStep =
      ([.flushEntry 0], 1, .halted) := by decide
/-- VH1. -/
theorem test_secHdrStep :
    (fun t : State => (t.pf.secCtl, t.pf.frameCounter, t.pf.keyIndex, t.pf.micLen, t.pf.mhrLen, t.rxState))
      secured.secHdrStep = (0x0D, 1, 7, 4, 15, .payload) := by decide
/-- P1 line 9. -/
theorem test_payloadStep :
    (fun t : State => (t.pf.payloadLen, t.pf.buf.drop 9, t.rxState)) copied.payloadStep =
      (20, (List.range 20).map (BitVec.ofNat 8), .trailer) := by decide
/-- VD2 and VD5: the walk over information elements. -/
theorem test_ieWalk :
    ieWalkBytes ([0x01, 0x0D, 0xAA, 0x80, 0x3F] ++ List.replicate 15 0) 0 20 false = .located 3 ∧
      ieWalkBytes ([0x13, 0x0D] ++ List.replicate 18 0) 0 20 false = .malformed ∧
      ieWalkBytes [0x80, 0x3F] 0 2 false = .zeroLen := by decide
/-- VK3, VK10. -/
theorem test_timers :
    afterStep (moving { boot with bo := { boot.bo with rx := ⟨true, 500⟩ } } (.agent (.boTimer .rx)))
        (fun t => (t.regBackoff, t.out)) = some (0x010, [.backoffExpired .rx]) ∧
      afterStep (moving { boot with ackWait := true } (.agent .ackTimer)) (fun t => (t.ackWait, t.out)) =
        some (false, [.ackNotReceived]) := by decide
/-- VK9: the stored submission is dropped. -/
theorem test_retry_dropped :
    (fun t : State => (t.diag.get 19, t.regBackoff))
      (State.retryStep
        { boot with
          retryEvt := { boot.retryEvt with tx := true }
          retryArgs := { boot.retryArgs with tx := ⟨true, 3, 0, 1000, 0x000A0007⟩ }
          dcTotal := 2500
          dcRecorded := true } .tx) = (1, 0) := by decide

/-! ## Registers and the ring -/

/-- P5 line 6: RING_CTL[0] reads 0x00050001, and the first byte is where the frame starts. -/
theorem test_ringWrite :
    afterStep (moving rxUp (.ringWrite 0 [0x90, 0x1F, 0x61, 0xA8, 0x5A] false))
      (fun t => (regRingCtl (t.entry 0), t.ringByte 0 0, t.ringByte 0 4, t.ringByte 1 0)) =
      some (0x00050001, 0x90, 0x5A, 0) := by decide
/-- Section 0: DESC_CTL[5] reads 0x0F01 in S0. -/
theorem test_read_descriptor :
    afterStep (moving boot (.regRead 4 0x250)) (fun t => t.busData) = some 0x0F01 := by decide
/-- 20_memory.md R103: a 16-bit access, and an offset that is not listed, have no step. -/
theorem test_no_register :
    (afterStep (moving boot (.regRead 2 0x010)) (fun t => t.busData)).isSome = false ∧
      (afterStep (moving boot (.regWrite 4 0x0D0 0)) (fun t => t.busData)).isSome = false := by decide

/-! ## Witnesses: for every statement with hypotheses, states that meet them, clause by clause -/

theorem boot_flight : boot.FlightInv := by constructor <;> decide
theorem boot_frame : boot.FrameInv := by constructor <;> first | decide | (intro _; constructor <;> decide)
theorem boot_timer : boot.TimerInv := by
  constructor <;> intro c <;> cases c <;> intro h <;> cases h
theorem boot_duty : boot.DutyInv := by constructor <;> decide
theorem boot_ring : boot.RingInv := by constructor <;> decide
theorem rxUp_flight : rxUp.FlightInv := by constructor <;> decide
theorem txUp_flight : txUp.FlightInv := by constructor <;> decide
theorem addressed_frame : addressed.FrameInv := by constructor <;> first | decide | (intro _; constructor <;> decide)
theorem secured_frame : secured.FrameInv := by constructor <;> first | decide | (intro _; constructor <;> decide)
theorem copied_frame : copied.FrameInv := by constructor <;> first | decide | (intro _; constructor <;> decide)
theorem rxUp_ring : rxUp.RingInv := by constructor <;> decide

theorem witness_EncodeOfDecode :
    decode .cmd 0x000F4043 = .ok (.setFilterMode 0x0F false false true) ∧
      decode .evt 0x0000F002 = .ok (.evtCmdDone 2 7) := by decide

theorem witness_StepRunsDecoded :
    (moving boot (.regWrite 4 0x000 0x13)).cfg.admitted = true ∧ decodeCmd 0x13 = .ok (.stopAll false) ∧
      (moving boot (.event 0x102)).cfg.admitted = true ∧ decodeEvt 0x102 = .ok (.evtPreamble 2 0) ∧
      decodeTableWord 32 0x13 = some (.stopAll false) := by decide

theorem witness_CommandWord :
    (moving pwr (.regWrite 4 0x000 0x13)).cfg.admitted = true ∧ pwr.init = false ∧
      (0x13 : Word).extractLsb' 0 8 ≠ (0x01 : Byte) ∧
      boot.init = true ∧ decodeCmd 0x44 = .error (.reservedOpcode 0x44) ∧ decodeCmd 0x13 = .ok (.stopAll false) ∧
      (0x101 : Word).extractLsb' 0 8 = (0x01 : Byte) ∧ decodeCmd 0x101 = .error (.reservedBits 0x01) := by decide

/-- The three words that only count: reserved bits, handle 10, no bit; handle 9 is the last that is a slot. -/
theorem witness_EventWord :
    (moving boot (.event 0x8009)).cfg.admitted = true ∧ boot.ready ∧ pwr.init = false ∧
      dead.init = true ∧ dead.fatal = true ∧
      (0x10102 : Word).extractLsb' 16 16 ≠ (0 : Half) ∧ 9 < ((0x10A : Word).extractLsb' 0 8).toNat ∧
      (0x2 : Word).extractLsb' 8 8 = (0 : Byte) ∧
      (0x8009 : Word).extractLsb' 16 16 = (0 : Half) ∧ ((0x8009 : Word).extractLsb' 0 8).toNat ≤ 9 ∧
      (0x8009 : Word).extractLsb' 8 8 ≠ (0 : Byte) ∧
      (0x80 : Byte).getLsbD 6 = false ∧ (0x7F : Byte).getLsbD 7 = false ∧ (0x70 : Byte).getLsbD 3 = false ∧
      (0x00 : Byte).getLsbD 0 = false :=
  ⟨by decide, boot_ready, by decide, by decide, by decide, by decide, by decide, by decide, by decide, by decide,
    by decide, by decide, by decide, by decide, by decide⟩

theorem witness_Guards :
    Instr.dcCheck.port = .cmd ∧ Instr.dcCheck.expansion = [.dcCheck] ∧ Instr.dcCheck ≠ .init ∧
      (Instr.evtTcFired 8).port = .evt ∧ pwr.init = false ∧ dead.init = true ∧ dead.fatal = true ∧
      ({ boot with ackWait := true } : State).enabled .ackTimer = true := by decide

/-- A failed INIT: from the state before it the step enters the fatal state. -/
def failing : State :=
  { pwr with draws := { Draws.none with ringAllocOk := [false] }, sched := [.regWrite 4 0x000 0x01] }

theorem witness_FatalState_enter :
    failing.fatal = false ∧ failing.init = false ∧ failing.ringAllocated = false ∧
      failing.drawRingAllocOk.1 = false ∧
      ∃ t, step failing = .next t ∧ t.fatal = true := ⟨rfl, rfl, rfl, rfl, _, rfl, rfl⟩

theorem witness_FatalState_stay :
    (∃ t, step (moving dead (.regWrite 4 0x000 0x12)) = .next t) ∧ dead.init = true ∧ dead.fatal = true ∧
      dead.faults = [] ∧ Instr.submitNoop.expansion = [.submitNoop] := ⟨⟨_, rfl⟩, rfl, rfl, rfl, rfl⟩

theorem witness_InitCommand :
    dead.fatal = true ∧ rxUp.fatal = false ∧ rxUp.init = true ∧ 0 < rxUp.cntTotal.toNat ∧
      failing.fatal = false ∧ failing.init = false ∧ failing.ringAllocated = false ∧
      failing.drawRingAllocOk.1 = false ∧
      boot.fatal = false ∧ boot.cntTotal = 0 ∧ boot.ringAllocated = true ∧
      ({ failing with draws := { Draws.none with ringAllocOk := [true] } } : State).drawRingAllocOk.1 = true := by
  decide

/-- Channel 16 of 16 is the first that is not there, 15 the last that is. -/
theorem witness_SubmitReceive :
    boot.cfg.admitted = true ∧ boot.ready ∧ boot.cfg.nChannels ≤ (16 : Half).toNat ∧
      (15 : Half).toNat < boot.cfg.nChannels ∧ copied.ready ∧ copied.rxState.midDecode = true ∧
      rxUp.ready ∧ rxUp.rxState.midDecode = false ∧ rxUp.inflight.rx = true ∧ boot.rxState.midDecode = false ∧
      boot.inflight.rx = false ∧ (answered boot true).drawAccept.1 = true ∧
      (answered boot false).drawAccept.1 = false :=
  ⟨rfl, boot_ready, by decide, by decide, ⟨rfl, rfl⟩, rfl, rxUp_ready, rfl, rfl, rfl, rfl, rfl, rfl⟩

/-- Lengths 0 and 128 are out of range, 127 is not; bit 27 is reserved. -/
theorem witness_SubmitTransmit :
    boot.cfg.admitted = true ∧ boot.ready ∧ boot.cfg.nChannels ≤ (16 : Half).toNat ∧
      ((0x00000007 : Word).extractLsb' 16 11 : BitVec 11).toNat = 0 ∧
      boot.cfg.maxFrameSize < ((0x00800007 : Word).extractLsb' 16 11 : BitVec 11).toNat ∧
      (0x080A0007 : Word).extractLsb' 27 5 ≠ (0 : BitVec 5) ∧
      ¬((boot.cfg.nChannels ≤ (15 : Half).toNat ∨ ((0x007F0007 : Word).extractLsb' 16 11 : BitVec 11).toNat = 0 ∨
        boot.cfg.maxFrameSize < ((0x007F0007 : Word).extractLsb' 16 11 : BitVec 11).toNat) ∨
        (0x007F0007 : Word).extractLsb' 27 5 ≠ (0 : BitVec 5)) ∧
      txUp.ready ∧ txUp.inflight.tx = true ∧ ({ boot with ackWait := true } : State).ackWait = true ∧
      ¬(boot.inflight.tx = true ∨ boot.ackWait = true) ∧ boot.dcPasses 1000 ∧
      ¬({ boot with dcTotal := 2500, dcRecorded := true } : State).dcPasses 500 ∧
      (answered boot true).drawAccept.1 = true ∧ (answered boot false).drawAccept.1 = false :=
  ⟨rfl, boot_ready, by decide, by decide, by decide, by decide, by decide, txUp_ready, rfl, rfl, by decide,
    .inl rfl, by rintro (h | h) <;> revert h <;> decide, rfl, rfl⟩

theorem witness_SubmitNoOperation :
    boot.cfg.admitted = true ∧ boot.ready ∧ boot.inflight.noop = false ∧
      ({ boot with inflight := { boot.inflight with noop := true } } : State).inflight.noop = true ∧
      (answered boot true).drawAccept.1 = true ∧ (answered boot false).drawAccept.1 = false :=
  ⟨rfl, boot_ready, rfl, rfl, rfl, rfl⟩

/-- With and without a frame mid-decode. -/
theorem witness_StopAll :
    copied.ready ∧ copied.rxState.midDecode = true ∧ boot.ready ∧ boot.rxState.midDecode = false :=
  ⟨⟨rfl, rfl⟩, rfl, boot_ready, rfl⟩

theorem witness_UpdateTransmitPower :
    boot.ready ∧ boot.inflight.tx = false ∧ boot.inflight.ack = false ∧ txUp.ready ∧ txUp.inflight.tx = true :=
  ⟨boot_ready, rfl, rfl, txUp_ready, rfl⟩

/-- SETUP_TC, DC_ADVANCE, SET_ROLE and the filter commands ask only that the block is ready. -/
theorem witness_ready_only : boot.ready := boot_ready

/-- The total may reach 2^32 - 1 and no more. -/
theorem witness_DutyRecord :
    boot.ready ∧ 2 ^ 32 - 1 < (0xFFFFFF00 : Word).toNat + (0x100 : Word).toNat ∧
      (0xFFFFFF00 : Word).toNat + (0xFF : Word).toNat ≤ 2 ^ 32 - 1 := ⟨boot_ready, by decide, by decide⟩

theorem witness_DutyCheck :
    boot.ready ∧ ({ boot with dcRecorded := true } : State).dcPasses 2999 ∧
      ¬({ boot with dcRecorded := true } : State).dcPasses 3000 :=
  ⟨boot_ready, .inr (by decide), by rintro (h | h) <;> revert h <;> decide⟩

theorem witness_BackoffRequest :
    boot.ready ∧ 2 < (3 : BitVec 4).toNat ∧ (2 : BitVec 4) = classNumber .noop := ⟨boot_ready, by decide, rfl⟩

theorem witness_PseudoInstructions :
    (Instr.setAddr 0x1234 1 5).expansion ≠ [.setAddr 0x1234 1 5] ∧
      ({ boot with sched := pseudoMoves (.setAddr 0x1234 1 5) } : State).cfg.admitted = true ∧ boot.ready ∧
      2 < (3 : BitVec 4).toNat ∧ (1 : BitVec 4) = classNumber .tx :=
  ⟨by decide, rfl, boot_ready, by decide, rfl⟩

theorem witness_RefusalsChangeOnlyRes :
    Instr.submitNoop.port = .cmd ∧ Instr.submitNoop.expansion = [.submitNoop] ∧ dead.init = true ∧
      (∃ t, exec .submitNoop dead = .next t ∧ t.res.extractLsb' 0 8 = (0x08 : Byte)) ∧
      (∃ t, exec (.submitRx 3) rxUp = .next t ∧ t.res.extractLsb' 0 8 = (0x02 : Byte)) ∧
      (∃ t, exec (.submitRx 3) copied = .next t ∧ t.res.extractLsb' 0 8 = (0x03 : Byte)) ∧
      (∃ t, exec (.submitRx 16) boot = .next t ∧ t.res.extractLsb' 0 8 = (0x06 : Byte)) :=
  ⟨rfl, rfl, rfl, ⟨_, rfl, by decide⟩, ⟨_, rfl, by decide⟩, ⟨_, rfl, by decide⟩, ⟨_, rfl, by decide⟩⟩

theorem witness_TerminalEvents :
    boot.ready ∧ .rx ∈ principals ∧ boot.inflight.get .rx = false ∧ txUp.ready ∧ .tx ∈ principals ∧
      txUp.inflight.get .tx = true := ⟨boot_ready, by decide, rfl, txUp_ready, by decide, rfl⟩

theorem witness_MemberStatuses :
    0 < 3 ∧ [CmdStatus.done, .error, .idle] ≠ [] ∧
      (∀ x ∈ [CmdStatus.done, .error, .idle], x ≠ CmdStatus.active) ∧
      [CmdStatus.done, .error, .idle].getLast? ≠ some CmdStatus.done ∧
      chainStatuses 3 .stopped ⟨1, true⟩ = [.done, .error, .idle] ∧ [Slot.fsTx, .cca, .tx].Nodup := by decide

theorem witness_TimerCompareFired :
    boot.ready ∧ (boot.tc.get .a).armed = false ∧
      (({ boot with tc := { boot.tc with b := ⟨true, 9, 40⟩ } } : State).tc.get .b).armed = true :=
  ⟨boot_ready, rfl, rfl⟩

/-- PREAMBLE, FRAME_OK, BAD_CRC and BUF_FULL: idle without RX, idle with it, mid-decode, halted. -/
theorem witness_frame_events :
    boot.ready ∧ boot.inflight.rx = false ∧ boot.rxState = .idle ∧ rxUp.ready ∧ rxUp.inflight.rx = true ∧
      rxUp.rxState.midDecode = false ∧ copied.ready ∧ copied.inflight.rx = true ∧
      copied.rxState.midDecode = true ∧ ({ rxUp with rxState := .halted } : State).ready ∧
      ({ rxUp with rxState := .halted } : State).rxState = .halted :=
  ⟨boot_ready, rfl, rfl, rxUp_ready, rfl, rfl, ⟨rfl, rfl⟩, rfl, rfl, ⟨rfl, rfl⟩, rfl⟩

/-- A started frame; its PARSER step is enabled from byte 5 on, not at 4. -/
theorem witness_HeaderStep :
    (started (frame0.take 5) false).rxState = .started ∧
      (started (frame0.take 5) false).enabled .parser = true ∧
      (started (frame0.take 4) false).enabled .parser = false := by decide

/-- A row of the address table and a frame control field of it. -/
theorem witness_AddressFieldTable :
    (0xA861 : Half).extractLsb' 10 2 = (2 : BitVec 2) ∧ (0xA861 : Half).extractLsb' 14 2 = (2 : BitVec 2) ∧
      (0xA861 : Half).getLsbD 6 = true ∧ (1 : BitVec 2).toNat < 2 := by decide

/-- The header is there from byte 11 on: with 10 bytes it is not. -/
theorem witness_AddressStep :
    addressed.FrameInv ∧ addressed.rxState = .addr ∧ 2 + addressed.pf.mhrBase.toNat ≤ addressed.rxCount 0 ∧
      ({ started (frame0.take 10) true with rxState := .addr, pf := frame0Pf } : State).rxCount 0 <
        2 + addressed.pf.mhrBase.toNat ∧
      ({ addressed with pf := addressed.addressFrame } : State).filterPass = true ∧
      ({ addressed with fPan := 0x4321, pf := addressed.addressFrame } : State).filterPass = false :=
  ⟨addressed_frame, rfl, by decide, by decide, by decide, by decide⟩

theorem witness_FilterAndAckPredicates : addressed.pf.dstMode ≠ 1 := by decide

theorem witness_AckSubmissions :
    addressed.inflight.ack = false ∧
      ({ addressed with inflight := { addressed.inflight with ack := true } } : State).inflight.ack = true := by
  decide

theorem witness_SecurityStep : secured.FrameInv ∧ secured.rxState = .secHdr := ⟨secured_frame, rfl⟩

theorem witness_PayloadStep : copied.FrameInv ∧ copied.rxState = .payload := ⟨copied_frame, rfl⟩

theorem witness_StageOrder :
    (started frame0 true).rxState = .started ∧ addressed.rxState = .addr ∧ secured.rxState = .secHdr ∧
      copied.rxState = .payload ∧ trailing.rxState = .trailer ∧ 4 ≤ 4 ∧ trailing.ready ∧
      trailing.rxState.midDecode = true := ⟨rfl, rfl, rfl, rfl, rfl, by decide, ⟨rfl, rfl⟩, rfl⟩

/-- 36 bytes hold the trailer, 35 do not; a data frame, an acknowledgment, and a frame with information
elements. -/
theorem witness_TrailerDispatch :
    2 + trailing.pf.mpduLen.toNat + 5 ≤ trailing.rxCount trailing.curEntry ∧
      (started (frame0.take 35) true).rxCount 0 < 2 + trailing.pf.mpduLen.toNat + 5 ∧
      trailing.pf.fcf.extractLsb' 0 3 ≠ (2 : BitVec 3) ∧ trailing.pf.fcf.getLsbD 9 = false ∧
      (0x2002 : Half).extractLsb' 0 3 = (2 : BitVec 3) ∧ (0xAA61 : Half).getLsbD 9 = true := by decide

theorem witness_ConsumeAndDeliver :
    (let s : State := { trailing with ackWait := true, ackWaitSeq := 0x5A }
     s.ackWait = true ∧ s.pf.seqPresent = true ∧ s.pf.seq = s.ackWaitSeq) ∧
      ¬(trailing.ackWait = true ∧ trailing.pf.seqPresent = true ∧ trailing.pf.seq = trailing.ackWaitSeq) := by
  decide

theorem witness_InformationElementWalk :
    (∀ e ∈ [((0x1A : Byte), [(0xAA : Byte)])], e.1 ≠ 0x7E ∧ e.1 ≠ 0x7F ∧ e.2.length < 128) ∧
      ieWalkBytes [0x01, 0x0D, 0xAA] 0 3 false = .located 3 := by decide

/-- R352 by hand: a payload IE of group 1 after header termination 1 and the payload termination (0xF800), the
same list in a secured frame, and the four malformed lists: an odd byte left, a payload type bit in the header
part, a header IE and a payload IE past the end. -/
theorem test_ie_payload :
    ieWalkBytes ([0x01, 0x0D, 0xAA, 0x00, 0x3F] ++ [0x01, 0x88, 0x55, 0x00, 0xF8]) 0 10 false = .located 6 ∧
      ieWalkBytes ([0x01, 0x0D, 0xAA, 0x00, 0x3F] ++ [0x01, 0x88, 0x55, 0x00, 0xF8]) 0 10 true = .located 3 ∧
      ieWalkBytes [0x01, 0x0D, 0xAA, 0x80] 0 4 false = .malformed ∧
      ieWalkBytes [0x00, 0x88] 0 2 false = .malformed ∧ ieWalkBytes [0x01, 0x0D] 0 2 false = .malformed ∧
      ieWalkBytes [0x00, 0x3F, 0x01, 0x88] 0 4 false = .malformed ∧
      ieWalkBytes [0x00, 0x3F, 0x01, 0x0D, 0xAA] 0 5 false = .malformed := by decide

/-- The no-op was rejected and its backoff runs; an acknowledgment is awaited; the radio accepts next. -/
def waiting : State :=
  { answered boot true with
    ackWait := true
    bo := { boot.bo with noop := ⟨true, 1000⟩ }
    retryArgs := { boot.retryArgs with noop := ⟨true, 0, 0, 0, 0⟩ } }

/-- The backoff expires, the retry is accepted, the wait for the acknowledgment ends, and nothing more moves. -/
def retryRun : Run where
  state
    | 0 => waiting
    | 1 => waiting.agentStep (.boTimer .noop)
    | 2 => (waiting.agentStep (.boTimer .noop)).agentStep (.retry .noop)
    | _ => ((waiting.agentStep (.boTimer .noop)).agentStep (.retry .noop)).agentStep .ackTimer
  move
    | 0 => some (.agent (.boTimer .noop))
    | 1 => some (.agent (.retry .noop))
    | 2 => some (.agent .ackTimer)
    | _ => none

theorem retryRun_valid : retryRun.valid
  | 0 => rfl
  | 1 => rfl
  | 2 => rfl
  | _ + 3 => rfl

/-- No agent is enabled at the end of it. -/
theorem retryRun_quiet (a : Agent) : (retryRun.state 3).enabled a = false := by
  cases a <;> (try rename_i c; cases c) <;> decide

theorem retryRun_fair : retryRun.fair := fun a n h =>
  absurd (h (n + 3) (by omega)) (Bool.eq_false_iff.mp (retryRun_quiet a))

/-- In the run the only retry is move 1. -/
theorem retryRun_retries : ∀ k, retryRun.retries k .noop → k = 1
  | 0, h => by cases h.1
  | 1, _ => rfl
  | 2, h => by cases h.1
  | _ + 3, h => by cases h.1

theorem witness_TimerSteps :
    (let s : State := moving { boot with bo := { boot.bo with tx := ⟨true, 9⟩ } } (.agent (.boTimer .tx))
     s.cfg.admitted = true ∧ s.ready ∧ (s.bo.get .tx).running = true ∧ s.enabled (.boTimer .tx) = true) ∧
      (let s : State := moving { boot with ackWait := true } (.agent .ackTimer)
       s.ready ∧ s.ackWait = true) ∧
      boot.enabled .parser = false ∧
      (submission .noop .submitNoop ∧ (answered boot false).ready ∧
        after .submitNoop (answered boot false) State.res = some 0x00000004) ∧
      retryRun.valid ∧ retryRun.fair ∧ (retryRun.state 0).awaitsRetry .noop ∧
      (∀ k, 0 ≤ k → retryRun.retries k .noop → (retryRun.state k).retryClear .noop) ∧
      (∀ k, 1 ≤ k → retryRun.retries k .noop → (retryRun.state k).drawAccept.1 = true) ∧
      retryRun.retries 1 .noop ∧ (retryRun.state 2).inflight.get OpClass.noop.slot = true ∧
      (retryRun.state 0).ready ∧ (retryRun.state 0).ringAllocated = true ∧ (retryRun.state 0).ackWait = true ∧
      (retryRun.state 3).ackWait = false := by
  refine ⟨⟨rfl, ⟨rfl, rfl⟩, rfl, rfl⟩, ⟨⟨rfl, rfl⟩, rfl⟩, rfl, ⟨rfl, ⟨rfl, rfl⟩, by decide⟩, retryRun_valid,
    retryRun_fair, ⟨⟨rfl, rfl⟩, rfl, .inl rfl⟩, fun k _ h => ?_, fun k _ h => ?_, ⟨rfl, rfl⟩, by decide, ⟨rfl, rfl⟩,
    rfl, rfl, rfl⟩
  · rw [retryRun_retries k h]; rfl
  · rw [retryRun_retries k h]; rfl

theorem witness_RetrySteps :
    boot.cfg.admitted = true ∧ (boot.retryArgs.get .rx).valid = false ∧
      (({ boot with retryArgs := { boot.retryArgs with tx := ⟨true, 3, 0, 1000, 0x000A0007⟩ } } : State).retryArgs.get
        .tx).valid = true := by decide

/-- The last listed offset of each block, and reads in the three kinds of state. -/
theorem witness_RegisterReads :
    (moving boot (.regRead 4 0x010)).cfg.admitted = true ∧ State.reads (moving boot (.regRead 4 0x010)) 0x010 [] ∧
      pwr.init = false ∧ pwr.fatal = false ∧ (0x014 : BitVec 12) ≠ 0x010 ∧ pwr.regListed 0x014 = true ∧
      boot.ready ∧ (0x0CC : BitVec 12).toNat = 0x080 + 4 * (19 : Fin 20).val ∧ 3 < boot.cfg.nBuckets ∧
      (0x10C : BitVec 12).toNat = 0x100 + 4 * 3 ∧ (0x290 : BitVec 12).toNat = 0x200 + 0x10 * Slot.tcB.num ∧
      boot.inflight.get .tcB = false ∧ rxUp.inflight.get .rx = true ∧
      (0x29C : BitVec 12).toNat = 0x20C + 0x10 * Slot.tcB.num ∧ (1 : BitVec 4).toNat < boot.cfg.ringN ∧
      (0x304 : BitVec 12).toNat = 0x300 + 4 * (1 : BitVec 4).toNat :=
  ⟨rfl, rfl, rfl, rfl, by decide, by decide, boot_ready, by decide, by decide, by decide, by decide, rfl, rfl,
    by decide, by decide, by decide⟩

/-- Offset 0x0CC is listed, 0x0D0 is not; 0x10C is the last bucket of four. -/
theorem witness_RegisterAccess :
    (moving boot (.regWrite 4 0x00C 7)).cfg.admitted = true ∧
      (0x0CC % 4 = 0 ∧ (0x0CC < 0x0D0 ∨ (0x100 ≤ 0x0CC ∧ 0x0CC < 0x100 + 4 * boot.cfg.nBuckets))) ∧
      ¬(0x0D0 < 0x0D0 ∨ (0x100 ≤ 0x0D0 ∧ 0x0D0 < 0x100 + 4 * boot.cfg.nBuckets) ∨
        (0x200 ≤ 0x0D0 ∧ 0x0D0 < 0x2A0) ∨ 0x300 ≤ 0x0D0) ∧
      0x10C < 0x100 + 4 * boot.cfg.nBuckets ∧ ¬(0x110 < 0x100 + 4 * boot.cfg.nBuckets) := by decide

/-- Entry 0 filled, entry 1 begun, and entry 0 flushed in mid-frame. -/
def filled : State := rxUp.ringWrite 0 [0x90] true
def begun : State := filled.ringWrite 1 [0x90] false
def cut : State := (rxUp.ringWrite 0 [0x90] false).flushEntry 0

/-- A ring of four whose entry k alone was filled, S.rdIdx still 0. -/
def fullAt (k : BitVec 4) : State :=
  { rxUp with
    cfg := { rxUp.cfg with ringN := 4 }
    ring := (List.replicate 4 ⟨.pending, 0⟩).set k.toNat ⟨.full, 1⟩
    radioLast := some k }

/-- 93_implementation_defined.md U8: only the next entry after the last one filled, at the ring's end entry 0. -/
theorem test_ring_order :
    (fullAt 2).ringWriteOk 3 [1] = true ∧ (fullAt 2).ringWriteOk 0 [1] = false ∧
      (fullAt 2).ringWriteOk 1 [1] = false ∧ (fullAt 2).ringWriteOk 2 [1] = false ∧
      (fullAt 3).ringWriteOk 0 [1] = true ∧ (fullAt 3).ringWriteOk 1 [1] = false := by decide

theorem filled_ring : filled.RingInv := by constructor <;> decide
theorem begun_ring : begun.RingInv := by constructor <;> decide
theorem cut_ring : cut.RingInv := by constructor <;> decide

/-- An entry of 134 bytes takes 134 bytes and not 135; then the next entry is the write position, and no other;
an entry begun is gone on with; an entry flushed in mid-frame takes no more of that frame; and nothing is written
without RX. -/
theorem witness_RadioReceiveWrite :
    rxUp.cfg.admitted = true ∧ rxUp.RingInv ∧ filled.RingInv ∧ begun.RingInv ∧ cut.RingInv ∧
      rxUp.ringWriteOk 1 (List.replicate 134 0) = true ∧ rxUp.ringWriteOk 1 (List.replicate 135 0) = false ∧
      rxUp.ringWriteOk 1 [] = false ∧ rxUp.ringWriteOk 2 [1] = false ∧ boot.ringWriteOk 1 [1] = false ∧
      filled.ringWriteOk 1 [1] = true ∧ filled.ringWriteOk 0 [1] = false ∧
      begun.ringWriteOk 1 [1] = true ∧ begun.ringWriteOk 0 [1] = false ∧
      cut.ringWriteOk 1 [1] = true ∧ cut.ringWriteOk 0 [1] = false ∧
      afterStep (moving cut (.ringWrite 1 [1] false)) State.radioLast = some (some 1) ∧
      step (moving cut (.ringWrite 0 [1] false)) = .refused .radioDuty :=
  ⟨rfl, rxUp_ring, filled_ring, begun_ring, cut_ring, by unfold State.ringWriteOk; rw [List.length_replicate]; decide,
    by unfold State.ringWriteOk; rw [List.length_replicate]; decide, by decide, by decide, by decide,
    by decide, by decide, by decide, by decide, by decide, by decide, by decide, rfl⟩

theorem ringed : ({ rxUp with sched := [.ringWrite 0 [1] true] }.ringWrite 0 [0x90] false).RingInv := by
  constructor <;> decide

theorem witness_RingBytesStable :
    let s := { rxUp with sched := [.ringWrite 0 [1] true] }.ringWrite 0 [0x90] false
    s.RingInv ∧ 0 < s.rxCount 0 ∧ ∃ t, step s = .next t ∧ t.rxCount 0 = 2 :=
  ⟨ringed, by decide, _, rfl, by decide⟩

theorem witness_invariants_kept :
    boot.FlightInv ∧ boot.FrameInv ∧ boot.TimerInv ∧ boot.DutyInv ∧ boot.RingInv ∧ ∃ t, step boot = .next t :=
  ⟨boot_flight, boot_frame, boot_timer, boot_duty, boot_ring, _, rfl⟩

theorem witness_PowerOn : Config.vectors.admitted = true ∧ Config.default.admitted = true := by decide

/-- A step that takes cntTotal from 0, and one that takes it to 0. -/
theorem witness_PowerVoteOnEdges :
    (let s := moving (answered boot true) (.regWrite 4 0x000 0x12)
     s.FlightInv ∧ ∃ t, step s = .next t ∧ s.cntTotal = 0 ∧ t.cntTotal ≠ 0) ∧
      (let s := moving rxUp (.event 0x4002)
       s.FlightInv ∧ ∃ t, step s = .next t ∧ s.cntTotal ≠ 0 ∧ t.cntTotal = 0) :=
  ⟨⟨by constructor <;> decide, _, rfl, by decide, by decide⟩,
    ⟨by constructor <;> decide, _, rfl, by decide, by decide⟩⟩

theorem witness_HistoryKept :
    (∃ t, step (moving pwr (.regWrite 4 0x000 0x12)) = .next t ∧ t.faults ≠ []) ∧
      ({ pwr with faults := [.uninit] } : State).faults ≠ [] := ⟨⟨_, rfl, by decide⟩, by decide⟩

theorem witness_WindowEviction :
    let s : State := { boot with dcTotal := 2200, dcBucket := [2100, 100, 0, 0], dcCur := 3, dcRecorded := true }
    s.cfg.admitted = true ∧ s.DutyInv ∧ s.ready := ⟨rfl, by constructor <;> decide, rfl, rfl⟩

/-- STOP_ALL cuts the successor of a CCA in flight off. -/
theorem witness_DescriptorsStable :
    let s : State := { txUp with
      inflight := { txUp.inflight with cca := true }
      desc := { txUp.desc with cca := { txUp.desc.cca with next := some .tx } } }
    let u := moving s (.regWrite 4 0x000 0x13)
    u.FlightInv ∧ u.inflight.get .cca = true ∧ decodeCmd 0x13 = .ok (.stopAll false) ∧
      ∃ t, step u = .next t ∧ (t.desc.get .cca).next = none :=
  ⟨by constructor <;> decide, rfl, rfl, _, rfl, rfl⟩

theorem witness_InstructionFrames :
    (∃ t, exec (.evtPreamble 2 0) rxUp = .next t) ∧ (Instr.evtPreamble 2 0).port = .evt ∧ rxUp.init = true ∧
      (∃ t, exec .dcCheck boot = .next t) ∧ Instr.dcCheck.port = .cmd ∧ Instr.dcCheck ≠ .init ∧
      ∀ ch a c, Instr.dcCheck ≠ .submitTx ch a c :=
  ⟨⟨_, rfl⟩, rfl, rfl, ⟨_, rfl⟩, rfl, by decide, fun _ _ _ h => by cases h⟩

end Sys2Proof.Tests
end

section
/-!
PROOFS. O8: the common guards, read off the one shape every guarded command and every event word has.
-/

namespace Sys2Proof.Machine

theorem State.raiseFault_uninit (s : State) : s.raiseFault .uninit = s.withUninit := by
  unfold State.raiseFault State.withUninit
  split <;> rfl

/-- A command whose meaning is a body under guardCmd obeys the common guard (00_scope.md R12). -/
theorem guarded_of_guardCmd {i : Instr} {body : State → State}
    (h : ∀ s, exec i s = .next (s.guardCmd body)) : Guarded i := fun s =>
  ⟨fun hi => by rw [h, State.guardCmd_uninit hi, State.raiseFault_uninit],
    fun hi hf => by rw [h, State.guardCmd_fatal hi hf]; rfl⟩

/-- An event whose meaning is the delivery of a word obeys guardEvt (R12). -/
theorem guardedEvt_of_deliverEvent {i : Instr} {handle bits : Byte}
    (h : ∀ s, exec i s = .next (s.deliverEvent handle bits)) : GuardedEvt i := fun s =>
  ⟨fun hi => by rw [h, State.deliverEvent, State.guardEvt_uninit hi, State.raiseFault_uninit],
    fun hi hf => by rw [h, State.deliverEvent, State.guardEvt_fatal hi hf]⟩

/-- An event instruction is the delivery of a word (30_encoding.md R161). -/
theorem exec_of_port_evt {i : Instr} (h : i.port = .evt) :
    ∃ handle bits, ∀ s, exec i s = .next (s.deliverEvent handle bits) := by
  cases i
  case evtPreamble | evtFrameOk | evtBadCrc | evtBufFull | evtCmdDone | evtCmdStopped | evtCmdPreempted | evtTcFired =>
    exact ⟨_, _, fun _ => rfl⟩
  all_goals cases h

/-- Settles O8: the commands but INIT and the pseudo-instructions are bodies under guardCmd, the events are
deliveries under guardEvt, and an enabled agent runs. -/
theorem guards : Obligations.Guards := by
  refine ⟨fun i hport hexp hinit => ?_, fun i hport => ?_, fun s a h => ?_⟩
  · cases i
    case init => exact absurd rfl hinit
    case evtPreamble | evtFrameOk | evtBadCrc | evtBufFull | evtCmdDone | evtCmdStopped | evtCmdPreempted |
        evtTcFired =>
      cases hport
    case backoffCancel | stopNow | stopGraceful | tcRearm | setAddr | promiscOn =>
      cases hexp
    all_goals exact guarded_of_guardCmd fun _ => rfl
  · obtain ⟨handle, bits, hexec⟩ := exec_of_port_evt hport
    exact guardedEvt_of_deliverEvent hexec
  · simp_all [State.enabled, State.running]

end Sys2Proof.Machine
end

section
/-!
PROOFS. O57: every operation only appends to the output, and so every step extends the history.
-/

namespace Sys2Proof.Machine

/-! ## What each operation appends to the output (30_encoding.md R190)

Each lemma says that the output after begins with the output before; a composed operation's lemma chains those of
its parts. -/

theorem State.emit_out_prefix (s : State) (m : OutMsg) : s.out <+: (s.emit m).out := List.prefix_append _ _

theorem State.flushEntry_out_prefix (s : State) (k : BitVec 4) : s.out <+: (s.flushEntry k).out := by
  simp [State.flushEntry_out]

theorem State.discard_out_prefix (s : State) (r : DiagReason) : s.out <+: (s.discard r).out := by
  simp [State.discard_out]

theorem State.rxEnd_out_prefix (s : State) : s.out <+: s.rxEnd.out := by
  unfold State.rxEnd
  split
  · exact s.discard_out_prefix .aborted
  · exact List.prefix_rfl

theorem State.parserStop_out_prefix (s : State) : s.out <+: s.parserStop.out := s.rxEnd_out_prefix

theorem State.haltedToIdle_out (s : State) : s.haltedToIdle.out = s.out := by
  unfold State.haltedToIdle
  split <;> rfl

theorem State.unexpectedEnd_out_prefix (s : State) : s.out <+: s.unexpectedEnd.out := by
  unfold State.unexpectedEnd
  dsimp only
  split
  · exact State.flushEntry_out_prefix (s.count .unexpectedEvent) _
  · exact List.prefix_rfl

/-! ### Submissions -/

theorem State.onAccepted_out_prefix (s : State) (p : Slot) (m : List Slot) :
    s.out <+: (s.onAccepted p m).out := by
  simp [State.onAccepted_out]

theorem State.doSubmitRx_out_prefix (s : State) (ch : Half) : s.out <+: (s.doSubmitRx ch).2.out := by
  rw [State.doSubmitRx_eq]
  dsimp only
  split <;> simp [State.onAccepted_out]

theorem State.doSubmitTx_out_prefix (s : State) (ch : Half) (f : BitVec 4) (a0 a1 : Word) :
    s.out <+: (s.doSubmitTx ch f a0 a1).2.out := by
  rw [State.doSubmitTx_eq]
  dsimp only
  split
  · split <;> simp [State.onAccepted_out]
  · exact List.prefix_rfl

theorem State.doSubmitNoop_out_prefix (s : State) : s.out <+: s.doSubmitNoop.2.out := by
  rw [State.doSubmitNoop_eq]
  dsimp only
  split <;> simp [State.onAccepted_out]

theorem State.submitAck_out_prefix (s : State) (p q : Word) : s.out <+: (s.submitAck p q).2.out := by
  simp [State.submitAck_eq]

theorem State.submitImmAck_out_prefix (s : State) : s.out <+: s.submitImmAck.out := by
  rw [State.submitImmAck_eq]
  dsimp only
  split
  · exact List.prefix_rfl
  · split
    · exact (s.submitAck_out_prefix _ _).trans (State.onAccepted_out_prefix _ .ack [.ack])
    · exact s.submitAck_out_prefix _ _

theorem State.submitEnhAck_out_prefix (s : State) : s.out <+: s.submitEnhAck.out := by
  have draw : s.drawEnhAckIEs.2.out = s.out := by simp
  rw [State.submitEnhAck_eq, ← draw]
  dsimp only
  split
  · simp
  · split
    · exact (State.submitAck_out_prefix _ _ _).trans (State.onAccepted_out_prefix _ .ack [.ack])
    · exact State.submitAck_out_prefix _ _ _

/-! ### Duty cycle, transmit power, timer compare, terminal events -/

theorem State.dcAdd_out_prefix (s : State) (d : Word) : s.out <+: (s.dcAdd d).out := by
  simp [State.dcAdd, State.notifyMode_out]

theorem State.dcRecordInternal_out_prefix (s : State) (d : Word) : s.out <+: (s.dcRecordInternal d).out := by
  unfold State.dcRecordInternal
  split
  · exact List.prefix_rfl
  · exact s.dcAdd_out_prefix d

theorem State.dcAdvance_out_prefix (s : State) : s.out <+: s.dcAdvance.out := by
  simp [State.dcAdvance, State.notifyMode_out]

theorem State.applyPower_out_prefix (s : State) (v : Half) : s.out <+: (s.applyPower v).out := s.emit_out_prefix _

theorem State.applyPendingPower_out_prefix (s : State) : s.out <+: s.applyPendingPower.out := by
  unfold State.applyPendingPower
  split
  · exact s.applyPower_out_prefix _
  · exact List.prefix_rfl

theorem State.disarm_out_prefix (s : State) (ch : TcChan) : s.out <+: (s.disarm ch).out := by
  unfold State.disarm
  split
  · exact s.emit_out_prefix _
  · exact List.prefix_rfl

theorem State.tcFired_out_prefix (s : State) (ch : TcChan) : s.out <+: (s.tcFired ch).out := by
  unfold State.tcFired
  split
  · exact State.emit_out_prefix _ _
  · exact List.prefix_rfl

theorem State.tcFiredSlot_out_prefix (s : State) (h : Slot) : s.out <+: (s.tcFiredSlot h).out := by
  unfold State.tcFiredSlot
  split
  · exact s.tcFired_out_prefix .a
  · exact s.tcFired_out_prefix .b
  · exact List.prefix_rfl

theorem State.txEnd_out_prefix (s : State) (k : EndKind) : s.out <+: (s.txEnd k).out := by
  unfold State.txEnd
  dsimp only
  refine List.IsPrefix.trans ?_ (State.applyPendingPower_out_prefix _)
  split
  · split <;> exact s.dcRecordInternal_out_prefix _
  · exact List.prefix_rfl

theorem State.ackEnd_out_prefix (s : State) (k : EndKind) : s.out <+: (s.ackEnd k).out := by
  unfold State.ackEnd
  dsimp only
  refine List.IsPrefix.trans ?_ (State.applyPendingPower_out_prefix _)
  split
  · exact State.dcRecordInternal_out_prefix { s with ackQueued := false } _
  · exact List.prefix_rfl

theorem State.principalEnd_out_prefix (s : State) (p : Slot) (k : EndKind) :
    s.out <+: (s.principalEnd p k).out := by
  unfold State.principalEnd
  split
  · exact s.rxEnd_out_prefix
  · exact s.txEnd_out_prefix k
  · exact s.ackEnd_out_prefix k
  · exact List.prefix_rfl

theorem State.terminal_out_prefix (s : State) (p : Slot) (k : EndKind) : s.out <+: (s.terminal p k).out := by
  unfold State.terminal
  dsimp only
  split
  · refine List.IsPrefix.trans ?_ (State.principalEnd_out_prefix _ _ _)
    simp [State.retire_out]
  · exact List.prefix_rfl

/-! ### The receive machine -/

theorem State.hdrAllocate_out_prefix (s : State) (b0 b1 : Byte) (f : Half) :
    s.out <+: (s.hdrAllocate b0 b1 f).out := by
  rw [State.hdrAllocate_eq]
  split <;> simp [State.discard_out]

theorem State.hdrStep_out_prefix (s : State) : s.out <+: s.hdrStep.out := by
  unfold State.hdrStep
  dsimp only
  split_ifs
  · exact s.discard_out_prefix .length
  · exact s.discard_out_prefix .modeSwitch
  · exact s.discard_out_prefix .length
  · exact s.discard_out_prefix .length
  · split
    · exact s.discard_out_prefix _
    · exact s.hdrAllocate_out_prefix _ _ _

theorem State.addrPass_out_prefix (s : State) : s.out <+: s.addrPass.out := by
  unfold State.addrPass
  dsimp only
  split
  · exact s.submitImmAck_out_prefix
  · exact List.prefix_rfl

theorem State.addrStep_out_prefix (s : State) : s.out <+: s.addrStep.out := by
  unfold State.addrStep
  dsimp only
  split_ifs
  · exact s.discard_out_prefix .length
  · exact State.addrPass_out_prefix { s with pf := s.addressFrame }
  · exact State.discard_out_prefix { s with pf := s.addressFrame } .filter

theorem State.secHdrStep_out_prefix (s : State) : s.out <+: s.secHdrStep.out := by
  unfold State.secHdrStep
  dsimp only
  split_ifs
  case neg => exact List.prefix_rfl
  all_goals exact s.discard_out_prefix _

theorem State.payloadStep_out_prefix (s : State) : s.out <+: s.payloadStep.out := by
  unfold State.payloadStep
  split
  · exact s.discard_out_prefix .length
  · exact List.prefix_rfl

theorem State.stageStep_out_prefix (s : State) : s.out <+: s.stageStep.out := by
  unfold State.stageStep
  cases s.rxState with
  | started => exact s.hdrStep_out_prefix
  | addr => exact s.addrStep_out_prefix
  | secHdr => exact s.secHdrStep_out_prefix
  | payload => exact s.payloadStep_out_prefix
  | idle | trailer | halted => exact List.prefix_rfl

theorem State.runDueStages_out_prefix (s : State) : s.out <+: s.runDueStages.out :=
  s.stageStep_out_prefix.trans <| (State.stageStep_out_prefix _).trans <|
    (State.stageStep_out_prefix _).trans (State.stageStep_out_prefix _)

theorem State.finishFrame_out_prefix (s : State) : s.out <+: s.finishFrame.out :=
  State.flushEntry_out_prefix s.releasePf _

theorem State.deliver_out_prefix (s : State) : s.out <+: s.deliver.out :=
  (s.emit_out_prefix _).trans (State.finishFrame_out_prefix _)

theorem State.ackConsume_out_prefix (s : State) : s.out <+: s.ackConsume.out := by
  unfold State.ackConsume
  split
  · refine List.IsPrefix.trans ?_ (State.finishFrame_out_prefix _)
    exact s.emit_out_prefix _
  · exact s.discard_out_prefix .ackUnmatched

theorem State.ackAndDeliver_out_prefix (s : State) : s.out <+: s.ackAndDeliver.out := by
  refine List.IsPrefix.trans ?_ (State.deliver_out_prefix _)
  split
  · exact s.submitEnhAck_out_prefix
  · exact List.prefix_rfl

theorem State.dispatchFrame_out_prefix (s : State) : s.out <+: s.dispatchFrame.out := by
  unfold State.dispatchFrame
  split
  · split
    · refine List.IsPrefix.trans ?_ (State.ackAndDeliver_out_prefix _)
      exact List.prefix_rfl
    · exact s.discard_out_prefix .ieMalformed
    · exact s.discard_out_prefix .ieZeroLen
  · exact s.ackAndDeliver_out_prefix

theorem State.trailerAndDispatch_out_prefix (s : State) : s.out <+: s.trailerAndDispatch.out := by
  unfold State.trailerAndDispatch
  dsimp only
  split_ifs
  · exact s.discard_out_prefix .unexpectedEvent
  · exact State.ackConsume_out_prefix { s with pf := s.trailerFrame }
  · exact State.dispatchFrame_out_prefix { s with pf := s.trailerFrame }

theorem State.endFrame_out_prefix (s : State) : s.out <+: s.endFrame.out := by
  unfold State.endFrame
  dsimp only
  rw [State.haltedToIdle_out]
  split
  · exact s.runDueStages_out_prefix.trans (State.trailerAndDispatch_out_prefix _)
  · exact s.runDueStages_out_prefix

theorem State.frameOkEvent_out_prefix (s : State) : s.out <+: s.frameOkEvent.out := by
  unfold State.frameOkEvent
  cases s.rxState with
  | idle => exact s.unexpectedEnd_out_prefix
  | halted => exact s.haltedToIdle_out ▸ List.prefix_rfl
  | started | addr | secHdr | payload | trailer => exact s.endFrame_out_prefix

theorem State.badCrcEvent_out_prefix (s : State) : s.out <+: s.badCrcEvent.out := by
  unfold State.badCrcEvent
  split_ifs
  · exact s.discard_out_prefix .crcBad
  · exact s.unexpectedEnd_out_prefix
  · exact s.haltedToIdle_out ▸ List.prefix_rfl

theorem State.bufFullEvent_out_prefix (s : State) : s.out <+: s.bufFullEvent.out := by
  unfold State.bufFullEvent
  split_ifs
  · exact s.discard_out_prefix .bufferFull
  · exact List.prefix_rfl
  · exact s.haltedToIdle_out ▸ List.prefix_rfl

theorem State.preambleEvent_out_prefix (s : State) : s.out <+: s.preambleEvent.out := by
  unfold State.preambleEvent
  dsimp only
  split
  · split <;> simp [State.discard_out]
  · exact List.prefix_rfl

/-- The rule of an event bit only appends to the output (R160). -/
theorem State.bitRule_out_prefix (s : State) (h : Slot) (b : Nat) : s.out <+: (s.bitRule h b).out := by
  unfold State.bitRule
  split
  · exact s.preambleEvent_out_prefix
  · exact s.frameOkEvent_out_prefix
  · exact s.badCrcEvent_out_prefix
  · exact s.bufFullEvent_out_prefix
  · exact s.terminal_out_prefix h .done
  · exact s.terminal_out_prefix h .stopped
  · exact s.terminal_out_prefix h .preempted
  · exact s.tcFiredSlot_out_prefix h

/-! ### INIT -/

theorem State.emitDisable_out_prefix (s : State) (ch : TcChan) : s.out <+: (s.emitDisable ch).out := by
  unfold State.emitDisable
  split
  · exact s.emit_out_prefix _
  · exact List.prefix_rfl

theorem State.initialise_out_prefix (s : State) : s.out <+: s.initialise.out := by
  unfold State.initialise
  dsimp only
  split
  · exact (s.emitDisable_out_prefix .a).trans (State.emitDisable_out_prefix _ .b)
  · exact List.prefix_rfl

/-! ## The history a step extends (O57) -/

/-- `t` takes back nothing of `s`: the output is extended, the faults, INIT, the fatal state and the allocation
are kept, and the configuration is the same. -/
structure State.Extends (s t : State) : Prop where
  out : s.out <+: t.out
  faults : ∀ r ∈ s.faults, r ∈ t.faults
  init : s.init = true → t.init = true
  fatal : s.fatal = true → t.fatal = true
  ringAllocated : s.ringAllocated = true → t.ringAllocated = true
  cfg : t.cfg = s.cfg

theorem State.Extends.refl (s : State) : s.Extends s := ⟨List.prefix_rfl, fun _ h => h, id, id, id, rfl⟩

theorem State.Extends.trans {s t u : State} (h : s.Extends t) (k : t.Extends u) : s.Extends u where
  out := h.out.trans k.out
  faults r hr := k.faults r (h.faults r hr)
  init := k.init ∘ h.init
  fatal := k.fatal ∘ h.fatal
  ringAllocated := k.ringAllocated ∘ h.ringAllocated
  cfg := k.cfg.trans h.cfg

/-- What only appends to the output and leaves the other fields of the history alone extends it. -/
theorem State.Extends.of_out {s t : State} (out : s.out <+: t.out)
    (same : t.cfg = s.cfg ∧ t.init = s.init ∧ t.fatal = s.fatal ∧ t.ringAllocated = s.ringAllocated ∧
      t.faults = s.faults) : s.Extends t := by
  obtain ⟨hcfg, hinit, hfatal, halloc, hfaults⟩ := same
  exact ⟨out, fun r h => hfaults ▸ h, fun h => hinit ▸ h, fun h => hfatal ▸ h, fun h => halloc ▸ h, hcfg⟩

/-- The fault set after raise Fault(r) (60_exceptions.md R493). -/
theorem State.mem_faults_raiseFault (s : State) (r x : FaultReason) :
    x ∈ (s.raiseFault r).faults ↔ x ∈ s.faults ∨ x = r := by
  by_cases h : r ∈ s.faults <;> simp [State.raiseFault, h]

theorem State.raiseFault_extends (s : State) (r : FaultReason) : s.Extends (s.raiseFault r) :=
  ⟨by simp, fun x hx => (s.mem_faults_raiseFault r x).mpr (.inl hx), by simp, by simp, by simp, by simp⟩

theorem State.result_extends (s : State) (c : ResultCode) : s.Extends (s.result c) :=
  .of_out List.prefix_rfl (by simp)

/-- A command whose body, in the ready state, extends the history extends it in every state (00_scope.md R12). -/
theorem State.guardCmd_extends {s : State} {body : State → State} (run : s.Extends (body s)) :
    s.Extends (s.guardCmd body) :=
  State.guardCmd_keeps (s.raiseFault_extends .uninit) (s.result_extends .fatal) fun _ => run

/-! ### Commands -/

theorem State.initialise_extends (s : State) : s.Extends s.initialise := by
  refine ⟨s.initialise_out_prefix, ?_, fun _ => rfl, ?_, ?_, ?_⟩
  all_goals
    unfold State.initialise State.emitDisable
    dsimp only
    split_ifs <;> simp [State.initValues]

theorem cmdInit_extends (s : State) : s.Extends (cmdInit s) := by
  rw [cmdInit_eq]
  split_ifs
  · exact s.result_extends .fatal
  · exact s.result_extends .busy
  · exact s.initialise_extends
  · refine State.Extends.trans ?_ (State.initialise_extends _)
    exact ⟨by simp, by simp, by simp, by simp, fun _ => rfl, by simp⟩
  · exact ⟨by simp, by simp, fun _ => rfl, fun _ => rfl, by simp, by simp⟩

theorem cmdSubmitRx_extends (ch : Half) (s : State) : s.Extends (cmdSubmitRx ch s) := by
  apply State.guardCmd_extends
  split_ifs
  · exact s.result_extends .invalidArg
  · exact s.result_extends .busyDecode
  · exact s.result_extends .busy
  · exact .of_out (s.doSubmitRx_out_prefix ch) (by simp [submitResult])

theorem cmdSubmitTx_extends (ch : Half) (ackReq cca : Bool) (s : State) :
    s.Extends (cmdSubmitTx ch ackReq cca s) := by
  apply State.guardCmd_extends
  split_ifs
  · exact s.result_extends .invalidArg
  · exact s.result_extends .busy
  · exact .of_out (s.doSubmitTx_out_prefix ch _ _ _) (by simp [submitResult])

theorem cmdSubmitNoop_extends (s : State) : s.Extends (cmdSubmitNoop s) := by
  apply State.guardCmd_extends
  split_ifs
  · exact s.result_extends .busy
  · exact .of_out s.doSubmitNoop_out_prefix (by simp [submitResult])

theorem cmdStopAll_extends (graceful : Bool) (s : State) : s.Extends (cmdStopAll graceful s) := by
  apply State.guardCmd_extends
  refine .of_out ?_ (by simp)
  exact (State.emit_out_prefix s.unlinkCca _).trans (State.parserStop_out_prefix _)

theorem cmdUpdateTxPower_extends (v : Half) (s : State) : s.Extends (cmdUpdateTxPower v s) := by
  apply State.guardCmd_extends
  split_ifs
  · exact .of_out (s.applyPower_out_prefix v) (by simp)
  · exact .of_out List.prefix_rfl (by simp)

theorem cmdSetupTc_extends (ch : TcChan) (cb : Half) (s : State) : s.Extends (cmdSetupTc ch cb s) := by
  rw [cmdSetupTc_eq]
  apply State.guardCmd_extends
  refine .of_out ((s.disarm_out_prefix ch).trans ?_) (by simp)
  simp

theorem cmdDcRecord_extends (s : State) : s.Extends (cmdDcRecord s) := by
  apply State.guardCmd_extends
  split_ifs
  · exact s.result_extends .invalidArg
  · exact .of_out (s.dcAdd_out_prefix s.arg0) (by simp)

theorem cmdDcCheck_extends (s : State) : s.Extends (cmdDcCheck s) :=
  State.guardCmd_extends (.of_out List.prefix_rfl (by simp))

theorem cmdDcAdvance_extends (s : State) : s.Extends (cmdDcAdvance s) :=
  State.guardCmd_extends (.of_out s.dcAdvance_out_prefix (by simp))

theorem cmdSetRole_extends (panCoord beaconEn : Bool) (s : State) : s.Extends (cmdSetRole panCoord beaconEn s) :=
  State.guardCmd_extends (.of_out List.prefix_rfl (by simp))

theorem cmdBackoffReq_extends (sel : BitVec 4) (s : State) : s.Extends (cmdBackoffReq sel s) := by
  apply State.guardCmd_extends
  split
  · exact s.result_extends .invalidArg
  · exact .of_out (by simp) (by simp)

theorem cmdSetPan_extends (pan : Half) (s : State) : s.Extends (cmdSetPan pan s) :=
  State.guardCmd_extends (.of_out List.prefix_rfl (by simp))

theorem cmdSetShort_extends (addr : Half) (s : State) : s.Extends (cmdSetShort addr s) :=
  State.guardCmd_extends (.of_out List.prefix_rfl (by simp))

theorem cmdSetExt_extends (s : State) : s.Extends (cmdSetExt s) :=
  State.guardCmd_extends (.of_out List.prefix_rfl (by simp))

theorem cmdSetFilterMode_extends (allow : Byte) (promisc enhAck ackFp : Bool) (s : State) :
    s.Extends (cmdSetFilterMode allow promisc enhAck ackFp s) :=
  State.guardCmd_extends (.of_out List.prefix_rfl (by simp))

/-! ### Events, agents and every step -/

theorem State.deliverEvent_extends (s : State) (h bits : Byte) : s.Extends (s.deliverEvent h bits) := by
  refine State.deliverEvent_keeps (P := s.Extends) h bits (.refl s) (s.raiseFault_extends .uninit) ?_ ?_
  · intro u hu
    exact hu.trans (.of_out List.prefix_rfl (by simp))
  · intro u x b _ hu _
    exact hu.trans (.of_out (u.bitRule_out_prefix x b) (by simp))

theorem State.retrySubmit_extends (s : State) (c : OpClass) (a : RetryArgs) :
    s.Extends (s.retrySubmit c a).2 := by
  unfold State.retrySubmit
  cases c with
  | rx =>
    dsimp only
    split_ifs
    · exact .refl s
    · exact .refl s
    · exact .of_out (s.doSubmitRx_out_prefix _) (by simp)
  | tx =>
    dsimp only
    split
    · exact .refl s
    · exact .of_out (s.doSubmitTx_out_prefix _ _ _ _) (by simp)
  | noop =>
    dsimp only
    split
    · exact .refl s
    · exact .of_out s.doSubmitNoop_out_prefix (by simp)

theorem State.retryOutcome_extends (s : State) (c : OpClass) (o : ResultCode) :
    s.Extends (s.retryOutcome c o) := by
  cases o with
  | busy | busyDecode | dcBlocked | invalidArg =>
    exact .of_out List.prefix_rfl (by simp [State.retryOutcome, State.dropRetry])
  | ok | rejected | deferred | illegalOp | fatal => exact .refl s

theorem State.retryStep_extends (s : State) (c : OpClass) : s.Extends (s.retryStep c) := by
  have consume : s.Extends { s with retryEvt := s.retryEvt.set c false } := .of_out List.prefix_rfl (by simp)
  rw [State.retryStep_eq]
  dsimp only
  split
  · exact consume.trans ((State.retrySubmit_extends _ c _).trans (State.retryOutcome_extends _ c _))
  · exact consume

theorem State.agentStep_extends (s : State) (a : Agent) : s.Extends (s.agentStep a) := by
  cases a with
  | parser => exact .of_out s.stageStep_out_prefix (by simp [State.agentStep])
  | boTimer c => exact .of_out (by simp [State.agentStep]) (by simp [State.agentStep])
  | retry c => exact s.retryStep_extends c
  | ackTimer => exact .of_out (by simp [State.agentStep]) (by simp [State.agentStep])

theorem exec_extends {i : Instr} {s t : State} (h : exec i s = .next t) : s.Extends t :=
  exec_keeps (P := s.Extends)
    (arg0 := fun _ _ k => k.trans (.of_out List.prefix_rfl (by simp)))
    (arg1 := fun _ _ k => k.trans (.of_out List.prefix_rfl (by simp)))
    (init := fun u k => k.trans (cmdInit_extends u))
    (submitRx := fun ch u k => k.trans (cmdSubmitRx_extends ch u))
    (submitTx := fun ch a c u k => k.trans (cmdSubmitTx_extends ch a c u))
    (submitNoop := fun u k => k.trans (cmdSubmitNoop_extends u))
    (stopAll := fun g u k => k.trans (cmdStopAll_extends g u))
    (power := fun v u k => k.trans (cmdUpdateTxPower_extends v u))
    (setupTc := fun ch cb u k => k.trans (cmdSetupTc_extends ch cb u))
    (dcRecord := fun u k => k.trans (cmdDcRecord_extends u))
    (dcCheck := fun u k => k.trans (cmdDcCheck_extends u))
    (dcAdvance := fun u k => k.trans (cmdDcAdvance_extends u))
    (setRole := fun p b u k => k.trans (cmdSetRole_extends p b u))
    (backoff := fun sel u k => k.trans (cmdBackoffReq_extends sel u))
    (setPan := fun p u k => k.trans (cmdSetPan_extends p u))
    (setShort := fun a u k => k.trans (cmdSetShort_extends a u))
    (setExt := fun u k => k.trans (cmdSetExt_extends u))
    (filter := fun a p e f u k => k.trans (cmdSetFilterMode_extends a p e f u))
    (event := fun x b u k => k.trans (u.deliverEvent_extends x b)) (.refl s) h

/-- Every step extends the history. -/
theorem step_extends {s t : State} (h : step s = .next t) : s.Extends t :=
  step_keeps (P := s.Extends)
    (sched := fun _ _ k => k.trans (.of_out List.prefix_rfl (by simp)))
    (draws := fun _ _ k => k.trans (.of_out List.prefix_rfl (by simp)))
    (bus := fun _ _ k => k.trans (.of_out List.prefix_rfl (by simp)))
    (inst := fun _ _ _ _ k he => k.trans (exec_extends he))
    (fault := fun u k => k.trans (u.raiseFault_extends .uninit))
    (res := fun u c k => k.trans (u.result_extends c))
    (count := fun _ k => k.trans (.of_out List.prefix_rfl (by simp)))
    (arg0 := fun _ _ k => k.trans (.of_out List.prefix_rfl (by simp)))
    (arg1 := fun _ _ k => k.trans (.of_out List.prefix_rfl (by simp)))
    (ring := fun _ _ _ _ _ k _ => k.trans (.of_out List.prefix_rfl (by simp [State.ringWrite])))
    (agent := fun u a _ k _ => k.trans (u.agentStep_extends a)) (.refl s) h

/-! ### A faulted state -/

theorem State.not_final_of_faults {s : State} (h : s.faults ≠ []) : s.final = false := by
  simp [State.final, h]

/-- STATUS bit 3 reads whether a fault is recorded (20_memory.md R106). -/
theorem State.regStatus_bit3 (s : State) : s.regStatus.getLsbD 3 = s.faulted := by
  simp only [State.regStatus, BitVec.getLsbD_append]
  simp

/-- Settles O57: every step extends the history (`step_extends`), and a recorded fault is seen in both readings of
the fault set. -/
theorem historyKept : Obligations.HistoryKept := by
  refine ⟨fun s t h => ?_, fun s hs => ⟨State.not_final_of_faults hs, ?_⟩⟩
  · obtain ⟨⟨ms, hout⟩, hfaults, hinit, hfatal, halloc, hcfg⟩ := step_extends h
    exact ⟨⟨ms, hout.symm⟩, hfaults, hinit, hfatal, halloc, hcfg⟩
  · simp [State.regStatus_bit3, State.faulted, hs]

end Sys2Proof.Machine
end

section
/-!
PROOFS. O60: the frames of the instructions. A frame is stated as a view of the state, the tuple of the fields that
stay; a guarded command keeps a view when its body does.
-/

namespace Sys2Proof.Machine

/-! ## Views -/

/-- The model's own fields (log entries 5, 7, 17 and 23) and the bytes of the ring. -/
@[simp] def State.modelView (s : State) := (s.cfg, s.sched, s.busData, s.radioLast, s.ringData)

/-- What every command but INIT keeps. -/
@[simp] def State.commandView (s : State) :=
  (s.modelView, s.init, s.fatal, s.ringAllocated, s.ackWait, s.ackWaitSeq, s.frameHandle, s.curEntry)

/-- The transmit context (10_state.md R43). -/
@[simp] def State.txContext (s : State) := (s.txAckReq, s.txSeq, s.txDur)

/-- What every command but INIT and the submissions keeps. -/
@[simp] def State.quietView (s : State) := (s.commandView, s.cntTotal, s.txContext)

/-- What every event keeps; the faults, which UNINIT joins before INIT, are stated apart. -/
@[simp] def State.eventView (s : State) :=
  (s.modelView, s.init, s.fatal, s.ringAllocated, s.arg0, s.arg1, s.res, s.progChannel, s.progValid, s.txPowerPend,
    s.txContext, s.bo, s.retryEvt, s.retryArgs, s.fPan, s.fShort, s.fExt, s.fAllow, s.fPromisc, s.fEnhAck, s.fAckFP,
    s.panCoord, s.beaconEn, s.dcBeacon, s.dcCur)

/-- The frame of a command but INIT: its view is kept, and the counter rises by 1 at most. -/
def State.CommandFrame (s t : State) : Prop :=
  t.commandView = s.commandView ∧ t.cntTotal.toNat ≤ s.cntTotal.toNat + 1

/-! ## Events and INIT -/

theorem State.deliverEvent_eventView (s : State) (h bits : Byte) :
    (s.deliverEvent h bits).eventView = s.eventView := by
  unfold State.deliverEvent State.guardEvt
  split_ifs
  · simp
  · rfl
  · split <;> simp

theorem State.deliverEvent_faults {s : State} (hi : s.init = true) (h bits : Byte) :
    (s.deliverEvent h bits).faults = s.faults := by
  cases hf : s.fatal with
  | true => rw [State.deliverEvent, State.guardEvt_fatal hi hf]
  | false =>
    rw [State.deliverEvent, State.guardEvt_ready hi hf]
    split <;> simp

theorem State.initialise_modelView (s : State) : s.initialise.modelView = s.modelView := by
  unfold State.initialise State.emitDisable
  dsimp only
  split_ifs <;> simp [State.initValues]

theorem cmdInit_modelView (s : State) : (cmdInit s).modelView = s.modelView := by
  rw [cmdInit_eq]
  split_ifs
  · simp
  · simp
  · exact s.initialise_modelView
  · rw [State.initialise_modelView]
    simp
  · simp

/-! ## Commands that submit nothing -/

theorem State.guardCmd_quiet {s : State} {body : State → State} (run : (body s).quietView = s.quietView) :
    (s.guardCmd body).quietView = s.quietView :=
  State.guardCmd_keeps (P := fun u => u.quietView = s.quietView) (by simp) (by simp) fun _ => run

theorem cmdStopAll_quiet (graceful : Bool) (s : State) : (cmdStopAll graceful s).quietView = s.quietView :=
  State.guardCmd_quiet (by simp)

theorem cmdUpdateTxPower_quiet (v : Half) (s : State) : (cmdUpdateTxPower v s).quietView = s.quietView :=
  State.guardCmd_quiet (by split <;> simp)

theorem cmdSetupTc_quiet (ch : TcChan) (cb : Half) (s : State) : (cmdSetupTc ch cb s).quietView = s.quietView := by
  rw [cmdSetupTc_eq]
  exact State.guardCmd_quiet (by simp)

theorem cmdDcRecord_quiet (s : State) : (cmdDcRecord s).quietView = s.quietView :=
  State.guardCmd_quiet (by split <;> simp)

theorem cmdDcCheck_quiet (s : State) : (cmdDcCheck s).quietView = s.quietView := State.guardCmd_quiet (by simp)

theorem cmdDcAdvance_quiet (s : State) : (cmdDcAdvance s).quietView = s.quietView := State.guardCmd_quiet (by simp)

theorem cmdSetRole_quiet (panCoord beaconEn : Bool) (s : State) :
    (cmdSetRole panCoord beaconEn s).quietView = s.quietView := State.guardCmd_quiet (by simp)

theorem cmdBackoffReq_quiet (sel : BitVec 4) (s : State) : (cmdBackoffReq sel s).quietView = s.quietView :=
  State.guardCmd_quiet (by split <;> simp)

theorem cmdSetPan_quiet (pan : Half) (s : State) : (cmdSetPan pan s).quietView = s.quietView :=
  State.guardCmd_quiet (by simp)

theorem cmdSetShort_quiet (addr : Half) (s : State) : (cmdSetShort addr s).quietView = s.quietView :=
  State.guardCmd_quiet (by simp)

theorem cmdSetExt_quiet (s : State) : (cmdSetExt s).quietView = s.quietView := State.guardCmd_quiet (by simp)

theorem cmdSetFilterMode_quiet (allow : Byte) (promisc enhAck ackFp : Bool) (s : State) :
    (cmdSetFilterMode allow promisc enhAck ackFp s).quietView = s.quietView := State.guardCmd_quiet (by simp)

theorem State.writeArg0_quiet (s : State) (v : Word) : (s.writeArg0 v).quietView = s.quietView := by simp

theorem State.writeArg1_quiet (s : State) (v : Word) : (s.writeArg1 v).quietView = s.quietView := by simp

theorem execSetAddr_quiet {pan addr : Half} {ext : DWord} {s t : State} (h : execSetAddr pan addr ext s = .next t) :
    t.quietView = s.quietView := by
  cases h
  rw [cmdSetExt_quiet, State.writeArg1_quiet, State.writeArg0_quiet, cmdSetShort_quiet, cmdSetPan_quiet]

/-! ## Submissions -/

/-- The 8-bit counter rises by 1, or wraps to 0. -/
theorem toNat_counter_add_one_le (v : BitVec 8) : (v + 1).toNat ≤ v.toNat + 1 := by
  rw [BitVec.toNat_add]
  exact Nat.mod_le _ _

theorem State.CommandFrame.of_quiet {s t : State} (h : t.quietView = s.quietView) :
    s.CommandFrame t ∧ t.txContext = s.txContext := by
  obtain ⟨hcommand, hcount, hcontext⟩ : t.commandView = s.commandView ∧ t.cntTotal = s.cntTotal ∧
    t.txContext = s.txContext := by simpa only [State.quietView, Prod.mk.injEq] using h
  exact ⟨⟨hcommand, by simp [hcount]⟩, hcontext⟩

theorem State.guardCmd_frame {s : State} {body : State → State} (run : s.CommandFrame (body s)) :
    s.CommandFrame (s.guardCmd body) :=
  State.guardCmd_keeps (P := s.CommandFrame) (State.CommandFrame.of_quiet (by simp)).1
    (State.CommandFrame.of_quiet (by simp)).1 fun _ => run

theorem State.doSubmitRx_cntTotal_le (s : State) (ch : Half) :
    (s.doSubmitRx ch).2.cntTotal.toNat ≤ s.cntTotal.toNat + 1 := by
  rw [State.doSubmitRx_eq]
  dsimp only
  split
  · simpa using toNat_counter_add_one_le s.cntTotal
  · simp

theorem State.doSubmitTx_cntTotal_le (s : State) (ch : Half) (f : BitVec 4) (a0 a1 : Word) :
    (s.doSubmitTx ch f a0 a1).2.cntTotal.toNat ≤ s.cntTotal.toNat + 1 := by
  rw [State.doSubmitTx_eq]
  dsimp only
  split
  · split
    · simpa using toNat_counter_add_one_le s.cntTotal
    · simp
  · simp

theorem State.doSubmitNoop_cntTotal_le (s : State) : s.doSubmitNoop.2.cntTotal.toNat ≤ s.cntTotal.toNat + 1 := by
  rw [State.doSubmitNoop_eq]
  dsimp only
  split
  · simpa using toNat_counter_add_one_le s.cntTotal
  · simp

theorem State.result_frame (s : State) (c : ResultCode) : s.CommandFrame (s.result c) :=
  (State.CommandFrame.of_quiet (by simp)).1

theorem cmdSubmitRx_frame (ch : Half) (s : State) : s.CommandFrame (cmdSubmitRx ch s) := by
  apply State.guardCmd_frame
  split_ifs
  · exact s.result_frame .invalidArg
  · exact s.result_frame .busyDecode
  · exact s.result_frame .busy
  · exact ⟨by simp [submitResult], by simpa [submitResult] using s.doSubmitRx_cntTotal_le ch⟩

theorem cmdSubmitTx_frame (ch : Half) (ackReq cca : Bool) (s : State) :
    s.CommandFrame (cmdSubmitTx ch ackReq cca s) := by
  apply State.guardCmd_frame
  split_ifs
  · exact s.result_frame .invalidArg
  · exact s.result_frame .busy
  · exact ⟨by simp [submitResult], by simpa [submitResult] using s.doSubmitTx_cntTotal_le ch _ _ _⟩

theorem cmdSubmitNoop_frame (s : State) : s.CommandFrame (cmdSubmitNoop s) := by
  apply State.guardCmd_frame
  split_ifs
  · exact s.result_frame .busy
  · exact ⟨by simp [submitResult], by simpa [submitResult] using s.doSubmitNoop_cntTotal_le⟩

theorem cmdSubmitRx_txContext (ch : Half) (s : State) : (cmdSubmitRx ch s).txContext = s.txContext := by
  refine State.guardCmd_keeps (P := fun u => u.txContext = s.txContext) (by simp) (by simp) fun _ => ?_
  split_ifs <;> simp [submitResult]

theorem cmdSubmitNoop_txContext (s : State) : (cmdSubmitNoop s).txContext = s.txContext := by
  refine State.guardCmd_keeps (P := fun u => u.txContext = s.txContext) (by simp) (by simp) fun _ => ?_
  split_ifs <;> simp [submitResult]

/-! ## Every instruction -/

theorem exec_eventFrame {i : Instr} {s t : State} (hport : i.port = .evt) (h : exec i s = .next t) :
    t.eventView = s.eventView ∧ (s.init = true → t.faults = s.faults) := by
  obtain ⟨handle, bits, hexec⟩ := exec_of_port_evt hport
  rw [hexec] at h
  cases h
  exact ⟨s.deliverEvent_eventView handle bits, fun hi => State.deliverEvent_faults hi handle bits⟩

theorem exec_commandFrame {i : Instr} {s t : State} (hport : i.port = .cmd) (hinit : i ≠ .init)
    (h : exec i s = .next t) :
    s.CommandFrame t ∧ ((∀ ch a c, i ≠ .submitTx ch a c) → t.txContext = s.txContext) := by
  have quiet (k : t.quietView = s.quietView) :
      s.CommandFrame t ∧ ((∀ ch a c, i ≠ .submitTx ch a c) → t.txContext = s.txContext) :=
    (State.CommandFrame.of_quiet k).imp_right fun hcontext _ => hcontext
  cases i
  case init => exact absurd rfl hinit
  case evtPreamble | evtFrameOk | evtBadCrc | evtBufFull | evtCmdDone | evtCmdStopped | evtCmdPreempted | evtTcFired =>
    cases hport
  case setAddr => exact quiet (execSetAddr_quiet h)
  all_goals cases h
  case submitRx ch => exact ⟨cmdSubmitRx_frame ch s, fun _ => cmdSubmitRx_txContext ch s⟩
  case submitTx ch a c => exact ⟨cmdSubmitTx_frame ch a c s, fun hne => absurd rfl (hne ch a c)⟩
  case submitNoop => exact ⟨cmdSubmitNoop_frame s, fun _ => cmdSubmitNoop_txContext s⟩
  case stopAll g => exact quiet (cmdStopAll_quiet g s)
  case updateTxPower v => exact quiet (cmdUpdateTxPower_quiet v s)
  case setupTc ch cb => exact quiet (cmdSetupTc_quiet ch cb s)
  case dcRecord => exact quiet (cmdDcRecord_quiet s)
  case dcCheck => exact quiet (cmdDcCheck_quiet s)
  case dcAdvance => exact quiet (cmdDcAdvance_quiet s)
  case setRole p b => exact quiet (cmdSetRole_quiet p b s)
  case backoffReq sel => exact quiet (cmdBackoffReq_quiet sel s)
  case setPan p => exact quiet (cmdSetPan_quiet p s)
  case setShort a => exact quiet (cmdSetShort_quiet a s)
  case setExt => exact quiet (cmdSetExt_quiet s)
  case setFilterMode a p e f => exact quiet (cmdSetFilterMode_quiet a p e f s)
  case backoffCancel sel => exact quiet ((cmdBackoffReq_quiet sel _).trans (s.writeArg0_quiet 0))
  case stopNow => exact quiet (cmdStopAll_quiet false s)
  case stopGraceful => exact quiet (cmdStopAll_quiet true s)
  case tcRearm ch cb d => exact quiet ((cmdSetupTc_quiet ch cb _).trans (s.writeArg0_quiet d))
  case promiscOn => exact quiet (cmdSetFilterMode_quiet _ _ _ _ s)

/-- No instruction changes the model's own fields or a byte of the ring. -/
theorem exec_modelView {i : Instr} {s t : State} (h : exec i s = .next t) : t.modelView = s.modelView := by
  cases hport : i.port with
  | evt => exact congrArg Prod.fst (exec_eventFrame hport h).1
  | cmd =>
    by_cases hinit : i = .init
    · subst hinit
      cases h
      exact cmdInit_modelView s
    · exact congrArg Prod.fst (exec_commandFrame hport hinit h).1.1

/-- Settles O60: the model's fields stay under every instruction, the event view under every event and the command
view under every command but INIT. -/
theorem instructionFrames : Obligations.InstructionFrames := by
  intro i s t h
  obtain ⟨hcfg, hsched, hbus, hlast, hring⟩ : t.cfg = s.cfg ∧ t.sched = s.sched ∧ t.busData = s.busData ∧
    t.radioLast = s.radioLast ∧ t.ringData = s.ringData := by simpa using exec_modelView h
  refine ⟨⟨hcfg, hsched, hbus, hlast⟩, fun _ => ⟨hring, fun a => by rw [hring]⟩, fun hport => ?_,
    fun hport hinit => ?_⟩
  · obtain ⟨hview, hfaults⟩ := exec_eventFrame hport h
    simp_all
  · obtain ⟨⟨hview, hcount⟩, hcontext⟩ := exec_commandFrame hport hinit h
    simp_all

end Sys2Proof.Machine
end

section
/-!
PROOFS. One induction for the invariants of every step: a property that reads only the fields of `invView` is kept by
every step once the rules that change those fields keep it.
-/

namespace Sys2Proof.Machine

/-- The fields the flight, the frame and the duty invariant read. -/
@[simp] def State.invView (s : State) :=
  (s.cfg, s.init, s.fatal, s.cntTotal, s.cntRx, s.inflight, s.ackQueued, s.rxState, s.pf, s.dcBucket, s.dcTotal,
    s.dcCur, s.dcRecorded)

/-- `P` reads the fields of `invView` alone, and the rules that change one of them keep it. Each rule comes with what
its command, event or agent has checked before it runs. -/
structure KeptByRules (P : State → Prop) : Prop where
  congr : ∀ {s t : State}, t.invView = s.invView → P s → P t
  initialise : ∀ s : State, P s → s.fatal = false → P s.initialise
  initFails : ∀ s : State, P s → s.init = false ∨ s.cntTotal = 0 → P { s with fatal := true, init := true }
  submitRx : ∀ (s : State) ch, s.ready → P s → s.inflight.rx = false → P (s.doSubmitRx ch).2
  submitTx : ∀ (s : State) ch f a0 a1, s.ready → P s → s.inflight.tx = false → P (s.doSubmitTx ch f a0 a1).2
  submitNoop : ∀ s : State, s.ready → P s → s.inflight.noop = false → P s.doSubmitNoop.2
  parserStop : ∀ s : State, P s → P s.parserStop
  record : ∀ (s : State) d, P s → s.dcOverflows d = false → P (s.dcAdd d)
  advance : ∀ s : State, P s → P s.dcAdvance
  preamble : ∀ s : State, P s → P s.preambleEvent
  frameOk : ∀ s : State, s.ready → P s → P s.frameOkEvent
  badCrc : ∀ s : State, P s → P s.badCrcEvent
  bufFull : ∀ s : State, P s → P s.bufFullEvent
  terminal : ∀ (s : State) p k, P s → p ∈ principals → s.inflight.get p = true → P (s.terminal p k)
  stage : ∀ s : State, s.ready → P s → P s.stageStep

/-- Only a principal's mask holds the bits of the terminal events (30_encoding.md R189). -/
theorem mem_principals_of_eventMask {x : Slot} {b : Nat} (hb : b = 4 ∨ b = 5 ∨ b = 6)
    (h : x.eventMask.getLsbD b = true) : x ∈ principals := by
  obtain rfl | rfl | rfl := hb <;> revert h <;> cases x <;> decide

/-- INIT's reset values (70_reset_and_hazards.md R541). -/
@[simp] theorem State.initialise_fields (s : State) :
    s.initialise.cfg = s.cfg ∧ s.initialise.init = true ∧ s.initialise.fatal = s.fatal ∧
    s.initialise.cntTotal = 0 ∧ s.initialise.cntRx = 0 ∧
    s.initialise.inflight = PerSlot.all false ∧ s.initialise.ackQueued = false ∧
    s.initialise.rxState = .idle ∧ s.initialise.pf = PartialFrame.empty ∧
    s.initialise.dcBucket = List.replicate s.cfg.nBuckets 0 ∧ s.initialise.dcTotal = 0 ∧ s.initialise.dcCur = 0 ∧
    s.initialise.dcRecorded = false := by
  unfold State.initialise State.emitDisable
  dsimp only
  split_ifs <;> simp [State.initValues]

/-- Neither a refused stored submission nor an accepted or rejected one touches the view in its outcome (R436). -/
theorem State.retryOutcome_invView (s : State) (c : OpClass) (out : ResultCode) :
    (s.retryOutcome c out).invView = s.invView := by
  cases out <;> simp [State.retryOutcome, State.dropRetry]

/-- An enabled agent finds the machine ready (00_scope.md R12). -/
theorem State.ready_of_enabled {s : State} {a : Agent} (h : s.enabled a = true) : s.ready := by
  simp_all [State.ready, State.enabled, State.running]

section
variable {P : State → Prop} (k : KeptByRules P)
include k

/-- A guarded command keeps what its body keeps. -/
theorem KeptByRules.guardCmd {s : State} {body : State → State} (hs : P s) (run : s.ready → P (body s)) :
    P (s.guardCmd body) :=
  State.guardCmd_keeps (k.congr (by simp) hs) (k.congr (by simp) hs) run

/-- A guarded command whose body leaves the view alone. -/
theorem KeptByRules.quietCmd {s : State} {body : State → State} (hs : P s) (run : (body s).invView = s.invView) :
    P (s.guardCmd body) :=
  k.guardCmd hs fun _ => k.congr run hs

theorem KeptByRules.result {s : State} (c : ResultCode) (hs : P s) : P (s.result c) := k.congr (by simp) hs

theorem KeptByRules.count {s : State} (r : DiagReason) (hs : P s) : P (s.count r) := k.congr (by simp) hs

/-- INIT (40_scheduler.md R230): turned away, or it resets the machine, or the ring allocation fails. -/
theorem KeptByRules.cmdInit {s : State} (hs : P s) : P (cmdInit s) := by
  rw [cmdInit_eq]
  split_ifs with hfatal hbusy
  · exact k.result _ hs
  · exact k.result _ hs
  · exact k.initialise s hs (by simpa using hfatal)
  · exact k.initialise _ (k.congr (by simp) hs) (by simpa using hfatal)
  · refine k.result _ (k.congr (by simp) (k.initFails s hs ?_))
    by_cases hi : s.init = true
    · exact .inr (BitVec.eq_of_toNat_eq (by simp_all))
    · exact .inl (by simpa using hi)

theorem KeptByRules.cmdSubmitRx (ch : Half) {s : State} (hs : P s) : P (cmdSubmitRx ch s) := by
  refine k.guardCmd hs fun hr => ?_
  split_ifs with _ _ hrx
  · exact k.result _ hs
  · exact k.result _ hs
  · exact k.result _ hs
  · exact k.result _ (k.submitRx s ch hr hs (by simpa using hrx))

theorem KeptByRules.cmdSubmitTx (ch : Half) (ackReq cca : Bool) {s : State} (hs : P s) :
    P (cmdSubmitTx ch ackReq cca s) := by
  refine k.guardCmd hs fun hr => ?_
  split_ifs with _ htx
  · exact k.result _ hs
  · exact k.result _ hs
  · exact k.result _ (k.submitTx s ch _ _ _ hr hs (by simp_all))

theorem KeptByRules.cmdSubmitNoop {s : State} (hs : P s) : P (cmdSubmitNoop s) := by
  refine k.guardCmd hs fun hr => ?_
  split_ifs with hnoop
  · exact k.result _ hs
  · exact k.result _ (k.submitNoop s hr hs (by simpa using hnoop))

theorem KeptByRules.cmdDcRecord {s : State} (hs : P s) : P (cmdDcRecord s) := by
  refine k.guardCmd hs fun _ => ?_
  split_ifs with hd
  · exact k.result _ hs
  · exact k.result _ (k.record s _ hs (by simpa using hd))

/-- The rule of an event bit (30_encoding.md R160). -/
theorem KeptByRules.bitRule {s : State} {x : Slot} {b : Nat} (hr : s.ready) (hs : P s)
    (hb : x.eventMask.getLsbD b = true) : P (s.bitRule x b) := by
  have ends (kind : EndKind) (hp : x ∈ principals) : P (s.terminal x kind) := by
    by_cases hx : s.inflight.get x = true
    · exact k.terminal s x kind hs hp hx
    · rw [State.terminal, if_neg hx]
      exact k.count _ hs
  unfold State.bitRule
  split
  · exact k.preamble s hs
  · exact k.frameOk s hr hs
  · exact k.badCrc s hs
  · exact k.bufFull s hs
  · exact ends .done (mem_principals_of_eventMask (by simp) hb)
  · exact ends .stopped (mem_principals_of_eventMask (by simp) hb)
  · exact ends .preempted (mem_principals_of_eventMask (by simp) hb)
  · exact k.congr (by simp) hs

theorem KeptByRules.exec {i : Instr} {s t : State} (hs : P s) (h : exec i s = .next t) : P t :=
  exec_keeps (P := P)
    (arg0 := fun _ _ hu => k.congr (by simp) hu)
    (arg1 := fun _ _ hu => k.congr (by simp) hu)
    (init := fun _ hu => k.cmdInit hu)
    (submitRx := fun ch _ hu => k.cmdSubmitRx ch hu)
    (submitTx := fun ch a c _ hu => k.cmdSubmitTx ch a c hu)
    (submitNoop := fun _ hu => k.cmdSubmitNoop hu)
    (stopAll := fun _ _ hu => k.guardCmd hu fun _ => k.result _ (k.parserStop _ (k.congr (by simp) hu)))
    (power := fun _ _ hu => k.quietCmd hu (by split <;> simp))
    (setupTc := fun _ _ _ hu => by rw [cmdSetupTc_eq]; exact k.quietCmd hu (by simp))
    (dcRecord := fun _ hu => k.cmdDcRecord hu)
    (dcCheck := fun _ hu => k.quietCmd hu (by simp))
    (dcAdvance := fun u hu => k.guardCmd hu fun _ => k.result _ (k.advance u hu))
    (setRole := fun _ _ _ hu => k.quietCmd hu (by simp))
    (backoff := fun _ _ hu => k.quietCmd hu (by split <;> simp))
    (setPan := fun _ _ hu => k.quietCmd hu (by simp))
    (setShort := fun _ _ hu => k.quietCmd hu (by simp))
    (setExt := fun _ hu => k.quietCmd hu (by simp))
    (filter := fun _ _ _ _ _ hu => k.quietCmd hu (by simp))
    (event := fun x b u hu => State.deliverEvent_keeps x b hu (k.congr (by simp) hu)
      (fun _ hv => k.count _ hv) fun _ _ _ hr hv hb => k.bitRule hr hv hb) hs h

/-- RETRY(c) submits by the rules of the class's command (43_backoff_timers.md R435). -/
theorem KeptByRules.retrySubmit {s : State} (c : OpClass) (a : RetryArgs) (hr : s.ready) (hs : P s) :
    P (s.retrySubmit c a).2 := by
  cases c with
  | rx =>
    simp only [State.retrySubmit]
    split_ifs with _ hrx
    · exact hs
    · exact hs
    · exact k.submitRx s _ hr hs (by simpa using hrx)
  | tx =>
    simp only [State.retrySubmit]
    split_ifs with htx
    · exact hs
    · exact k.submitTx s _ _ _ _ hr hs (by simp_all)
  | noop =>
    simp only [State.retrySubmit]
    split_ifs with hnoop
    · exact hs
    · exact k.submitNoop s hr hs (by simpa using hnoop)

theorem KeptByRules.agentStep {s : State} {a : Agent} (hs : P s) (ha : s.enabled a = true) : P (s.agentStep a) := by
  have hr := State.ready_of_enabled ha
  cases a with
  | parser => exact k.stage s hr hs
  | boTimer c => exact k.congr (by simp [State.agentStep]) hs
  | retry c =>
    have hs' : P { s with retryEvt := s.retryEvt.set c false } := k.congr (by simp) hs
    rw [State.agentStep, State.retryStep_eq]
    dsimp only
    split
    · exact k.congr (State.retryOutcome_invView _ _ _) (k.retrySubmit c _ hr hs')
    · exact hs'
  | ackTimer => exact k.congr (by simp [State.agentStep]) hs

/-- What the rules keep, every step keeps. -/
theorem KeptByRules.step {s t : State} (hs : P s) (h : step s = .next t) : P t :=
  step_keeps (P := P)
    (sched := fun _ _ hu => k.congr (by simp) hu)
    (draws := fun _ _ hu => k.congr (by simp) hu)
    (bus := fun _ _ hu => k.congr (by simp) hu)
    (inst := fun _ _ _ _ hu he => k.exec hu he)
    (fault := fun _ hu => k.congr (by simp) hu)
    (res := fun _ c hu => k.result c hu)
    (count := fun _ hu => k.count _ hu)
    (arg0 := fun _ _ hu => k.congr (by simp) hu)
    (arg1 := fun _ _ hu => k.congr (by simp) hu)
    (ring := fun _ _ _ _ _ hu _ => k.congr (by simp [State.ringWrite]) hu)
    (agent := fun _ _ _ hu ha => k.agentStep hu ha) hs h

end

end Sys2Proof.Machine
end

section
/-!
PROOFS. O53: the duty-cycle total is the sum of the buckets (42_duty_cycle.md R392, R396).
-/

namespace Sys2Proof.Machine

/-! ## Sums of buckets -/

/-- The window's contents (10_state.md R54). -/
def bucketSum (l : List Word) : Nat := (l.map BitVec.toNat).sum

/-- Writing a bucket exchanges its contents in the sum. -/
theorem bucketSum_set (w : Word) : ∀ (l : List Word) (i : Nat), i < l.length →
    bucketSum (l.set i w) + (l.getD i 0).toNat = bucketSum l + w.toNat
  | [], i, h => by simp at h
  | v :: r, 0, _ => by simp [bucketSum]; omega
  | v :: r, i + 1, h => by
    have ih := bucketSum_set w r i (by simpa using h)
    simp only [bucketSum, List.set_cons_succ, List.map_cons, List.sum_cons, List.getD_cons_succ] at ih ⊢
    omega

/-- Emptying a bucket takes its contents out of the sum. -/
theorem bucketSum_set_zero {l : List Word} {i : Nat} (h : i < l.length) :
    bucketSum (l.set i 0) + (l.getD i 0).toNat = bucketSum l := bucketSum_set 0 l i h

/-! ## What the two rules leave in the window -/

@[simp] theorem State.dcAdd_window (s : State) (d : Word) :
    (s.dcAdd d).dcBucket = s.dcBucket.set s.dcCur.toNat (s.bucket s.dcCur.toNat + d) ∧
      (s.dcAdd d).dcTotal = s.dcTotal + d ∧ (s.dcAdd d).dcRecorded = true := by
  simp [State.dcAdd]

@[simp] theorem State.dcAdvance_window (s : State) :
    s.dcAdvance.dcBucket = s.dcBucket.set s.oldestBucket 0 ∧
      s.dcAdvance.dcTotal = s.dcTotal - s.bucket s.oldestBucket ∧
      s.dcAdvance.dcCur = BitVec.ofNat 6 s.oldestBucket := by
  simp [State.dcAdvance]

/-! ## The invariant -/

/-- The fields the duty invariant reads. -/
@[simp] def State.dutyView (s : State) := (s.cfg, s.dcBucket, s.dcTotal, s.dcCur, s.dcRecorded)

theorem State.DutyInv.congr {s t : State} (h : s.DutyInv) (e : t.dutyView = s.dutyView) : t.DutyInv := by
  obtain ⟨ecfg, ebucket, etotal, ecur, erecorded⟩ : t.cfg = s.cfg ∧ t.dcBucket = s.dcBucket ∧
    t.dcTotal = s.dcTotal ∧ t.dcCur = s.dcCur ∧ t.dcRecorded = s.dcRecorded := by simpa using e
  exact ⟨by rw [etotal, ebucket]; exact h.total, by rw [ebucket, ecfg]; exact h.buckets,
    by rw [ecur, ecfg]; exact h.cur, by rw [erecorded, etotal]; exact h.recorded⟩

/-- A record that leaves the total in range wraps neither the total nor the current bucket (R392). -/
theorem State.DutyInv.dcAdd {s : State} (h : s.DutyInv) {d : Word} (hd : s.dcOverflows d = false) :
    (s.dcAdd d).DutyInv := by
  have hlen : s.dcCur.toNat < s.dcBucket.length := h.buckets ▸ h.cur
  have hrest := bucketSum_set_zero hlen
  have hset := bucketSum_set (s.bucket s.dcCur.toNat + d) s.dcBucket s.dcCur.toNat hlen
  have htotal : s.dcTotal.toNat = bucketSum s.dcBucket := h.total
  simp only [State.dcOverflows, decide_eq_false_iff_not, not_lt] at hd
  have hnext : (s.dcTotal + d).toNat = bucketSum (s.dcBucket.set s.dcCur.toNat (s.bucket s.dcCur.toNat + d)) := by
    rw [BitVec.toNat_add, State.bucket] at hset
    rw [BitVec.toNat_add, State.bucket]
    omega
  exact ⟨by simpa [bucketSum] using hnext, by simpa using h.buckets, by simpa using h.cur, by simp⟩

/-- The body of DC_ADVANCE takes the oldest bucket out of the window and out of the total (R396). -/
theorem State.DutyInv.dcAdvance {s : State} (h : s.DutyInv) : s.dcAdvance.DutyInv := by
  have hold : s.oldestBucket < s.cfg.nBuckets := Nat.mod_lt _ (Nat.zero_lt_of_lt h.cur)
  have hset := bucketSum_set_zero (l := s.dcBucket) (h.buckets ▸ hold)
  have htotal : s.dcTotal.toNat = bucketSum s.dcBucket := h.total
  have hnext : (s.dcTotal - s.bucket s.oldestBucket).toNat = bucketSum (s.dcBucket.set s.oldestBucket 0) := by
    rw [State.bucket, BitVec.toNat_sub_of_le (by rw [BitVec.le_def]; omega)]
    omega
  refine ⟨by simpa [bucketSum] using hnext, by simpa using h.buckets, ?_, fun hr => ?_⟩
  · simpa using lt_of_le_of_lt (Nat.mod_le _ _) hold
  · have hzero : s.dcTotal.toNat = 0 := by rw [h.recorded (by simpa using hr)]; rfl
    apply BitVec.eq_of_toNat_eq
    rw [(State.dcAdvance_window s).2.1, hnext]
    show bucketSum (s.dcBucket.set s.oldestBucket 0) = 0
    omega

/-- The block's own record of a transmission (R392). -/
theorem State.DutyInv.dcRecordInternal {s : State} (h : s.DutyInv) (d : Word) : (s.dcRecordInternal d).DutyInv := by
  unfold State.dcRecordInternal
  split_ifs with hd
  · exact h.congr (by simp)
  · exact h.dcAdd (by simpa using hd)

theorem State.DutyInv.txEnd {s : State} (h : s.DutyInv) (kind : EndKind) : (s.txEnd kind).DutyInv := by
  unfold State.txEnd
  dsimp only
  split_ifs
  · exact (h.dcRecordInternal s.txDur).congr (by simp)
  · exact (h.dcRecordInternal s.txDur).congr (by simp)
  · exact h.congr (by simp)

theorem State.DutyInv.ackEnd {s : State} (h : s.DutyInv) (kind : EndKind) : (s.ackEnd kind).DutyInv := by
  have hdequeued : State.DutyInv { s with ackQueued := false } := h.congr rfl
  unfold State.ackEnd
  dsimp only
  split_ifs
  · exact (hdequeued.dcRecordInternal s.cfg.ackAirtime).congr (by simp)
  · exact hdequeued.congr (by simp)

theorem State.DutyInv.terminal {s : State} (h : s.DutyInv) {p : Slot} (kind : EndKind)
    (hp : s.inflight.get p = true) : (s.terminal p kind).DutyInv := by
  have hretired : ((s.memberStatuses (s.inflightChain p) kind).retire p (s.inflightChain p)).DutyInv :=
    h.congr (by simp)
  rw [State.terminal, if_pos hp]
  dsimp only
  unfold State.principalEnd
  split
  · exact hretired.congr (by simp)
  · exact hretired.txEnd kind
  · exact hretired.ackEnd kind
  · exact hretired

/-- INIT empties the window and keeps the configuration, which has a bucket (R541). -/
theorem State.DutyInv.initialise {s : State} (h : s.DutyInv) : s.initialise.DutyInv :=
  ⟨by simp, by simp, by simpa using Nat.zero_lt_of_lt h.cur, fun _ => by simp⟩

/-- The duty-cycle rules keep the invariant; the other rules leave the window alone. -/
theorem dutyInv_keptByRules : KeptByRules State.DutyInv where
  congr e h := h.congr (by simp_all)
  initialise _ h _ := h.initialise
  initFails _ h _ := h.congr rfl
  submitRx _ _ _ h _ := h.congr (by simp)
  submitTx _ _ _ _ _ _ h _ := h.congr (by simp)
  submitNoop _ _ h _ := h.congr (by simp)
  parserStop _ h := h.congr (by simp)
  record _ _ h hd := h.dcAdd hd
  advance _ h := h.dcAdvance
  preamble _ h := h.congr (by simp)
  frameOk _ _ h := h.congr (by simp)
  badCrc _ h := h.congr (by simp)
  bufFull _ h := h.congr (by simp)
  terminal _ _ kind h _ hp := h.terminal kind hp
  stage _ _ h := h.congr (by simp)

/-- Settles O53: a record and an advance move the bucket and the total by the same amount. -/
theorem dutyInvKept : Obligations.DutyInvKept := fun _ _ h hstep => dutyInv_keptByRules.step h hstep

end Sys2Proof.Machine
end

section
/-!
PROOFS. What a stage of the receive machine can do, said once: it discards the frame or moves on to the next stage
(41_rx_frame_fsm.md R306 to R340).
-/

namespace Sys2Proof.Machine

/-- The end of a frame's decoding: nothing is held, and the receive machine waits (R303, R351, R354). -/
structure State.Released (s : State) : Prop where
  valid : s.pf.valid = false
  rxState : s.rxState = .idle ∨ s.rxState = .halted

theorem State.discard_released (s : State) (r : DiagReason) : (s.discard r).Released := ⟨by simp, .inr rfl⟩

theorem State.hdrAllocate_cases (s : State) (b0 b1 : Byte) (fcf : Half) :
    s.hdrAllocate b0 b1 fcf = s.drawAllocOk.2.discard .allocFail ∨
      s.hdrAllocate b0 b1 fcf =
        { s.drawAllocOk.2 with pf := s.drawAllocOk.2.headerFrame b0 b1 fcf, rxState := .addr } := by
  rw [State.hdrAllocate_eq]
  split_ifs
  · exact .inr rfl
  · exact .inl rfl

/-- HDR step: a discard, or the allocation of a frame that has passed R308's checks (R306). -/
theorem State.hdrStep_cases (s : State) :
    (∃ (u : State) (r : DiagReason), u.invView = s.invView ∧ s.hdrStep = u.discard r) ∨
      ∃ b0 b1, startedChecks s.cfg b0 b1 s.curFcf = none ∧
        s.hdrStep =
          { s.drawAllocOk.2 with pf := s.drawAllocOk.2.headerFrame b0 b1 s.curFcf, rxState := .addr } := by
  unfold State.hdrStep
  dsimp only
  split_ifs
  · exact .inl ⟨s, _, rfl, rfl⟩
  · exact .inl ⟨s, _, rfl, rfl⟩
  · exact .inl ⟨s, _, rfl, rfl⟩
  · exact .inl ⟨s, _, rfl, rfl⟩
  · split
    · exact .inl ⟨s, _, rfl, rfl⟩
    · rename_i hchecks
      obtain h | h := s.hdrAllocate_cases (s.ringByte s.curEntry 0) (s.ringByte s.curEntry 1) s.curFcf
      · exact .inl ⟨_, _, by simp, h⟩
      · exact .inr ⟨_, _, hchecks, h⟩

/-- ADDR step: a discard, or the addresses are read and the frame passes (R313). -/
theorem State.addrStep_cases (s : State) :
    (∃ u r, (u = s ∨ u = { s with pf := s.addressFrame }) ∧ s.addrStep = u.discard r) ∨
      s.addrStep = { s with pf := s.addressFrame }.addrPass := by
  unfold State.addrStep
  dsimp only
  split_ifs
  · exact .inl ⟨s, _, .inl rfl, rfl⟩
  · exact .inr rfl
  · exact .inl ⟨_, _, .inr rfl, rfl⟩

/-- SECHDR step: a discard, or a header and a MIC that fit the frame (R331). -/
theorem State.secHdrStep_cases (s : State) :
    (∃ r, s.secHdrStep = s.discard r) ∨
      (s.pf.mhrBase.toNat + auxLen s.secControlByte + micLenOf (secLevel s.secControlByte) ≤ s.pf.mpduLen.toNat ∧
        s.secHdrStep = { s with pf := s.securityFrame s.secControlByte, rxState := .payload }) := by
  unfold State.secHdrStep
  dsimp only
  split_ifs with _ _ _ _ hlen
  case neg => exact .inr ⟨by omega, rfl⟩
  all_goals exact .inl ⟨_, rfl⟩

/-- PAYLOAD step (R340). -/
theorem State.payloadStep_cases (s : State) :
    s.payloadStep = s.discard .length ∨ s.payloadStep = { s with pf := s.payloadFrame, rxState := .trailer } := by
  unfold State.payloadStep
  split_ifs
  · exact .inl rfl
  · exact .inr rfl

/-- The immediate acknowledgment marks its arming in the partial frame and touches nothing else of it (R321). -/
theorem State.submitImmAck_pf (s : State) : ∃ armed, s.submitImmAck.pf = { s.pf with ackArmed := armed } := by
  rw [State.submitImmAck_eq]
  dsimp only
  split_ifs
  · exact ⟨s.pf.ackArmed, by simp⟩
  · exact ⟨true, by simp⟩
  · exact ⟨s.pf.ackArmed, by simp⟩

/-- The end of the ADDR step fixes the header length and leaves the rest of the frame, but the arming (R313). -/
theorem State.addrPass_pf (s : State) :
    ∃ armed, s.addrPass.pf = { s.pf with ackArmed := armed, mhrLen := s.pf.mhrBase } := by
  unfold State.addrPass
  dsimp only
  split_ifs
  · obtain ⟨armed, h⟩ := s.submitImmAck_pf
    exact ⟨armed, by rw [h]⟩
  · exact ⟨s.pf.ackArmed, rfl⟩

/-- A secured frame goes on to its security header (R313). -/
theorem State.addrPass_rxState (s : State) :
    s.addrPass.rxState = if fcfSecurity s.pf.fcf then .secHdr else .payload := by
  unfold State.addrPass
  dsimp only
  split_ifs <;> obtain ⟨armed, h⟩ := s.submitImmAck_pf <;> simp_all

/-! ## The end of a frame -/

theorem State.finishFrame_released (s : State) : s.finishFrame.Released :=
  ⟨by simp [State.finishFrame, State.releasePf], .inl rfl⟩

theorem State.ackConsume_released (s : State) : s.ackConsume.Released := by
  unfold State.ackConsume
  split_ifs
  · exact State.finishFrame_released _
  · exact s.discard_released _

theorem State.dispatchFrame_released (s : State) : s.dispatchFrame.Released := by
  unfold State.dispatchFrame
  split_ifs
  · split
    · exact State.finishFrame_released _
    · exact s.discard_released _
    · exact s.discard_released _
  · exact State.finishFrame_released _

/-- Whatever the dispatch does, no frame is held after it (R350). -/
theorem State.trailerAndDispatch_released (s : State) : s.trailerAndDispatch.Released := by
  unfold State.trailerAndDispatch
  dsimp only
  split_ifs
  · exact s.discard_released _
  · exact State.ackConsume_released _
  · exact State.dispatchFrame_released _

end Sys2Proof.Machine
end

section
/-!
PROOFS. O51: the shape of the partial frame (10_state.md R49, 20_memory.md R117).
-/

namespace Sys2Proof.Machine

/-- The fields the frame invariant reads. -/
@[simp] def State.frameView (s : State) := (s.rxState, s.pf)

theorem State.FrameInv.congr {s t : State} (h : s.FrameInv) (e : t.frameView = s.frameView) : t.FrameInv := by
  obtain ⟨estate, epf⟩ : t.rxState = s.rxState ∧ t.pf = s.pf := by simpa using e
  exact ⟨by rw [epf, estate]; exact h.valid, by rw [epf, estate]; exact h.started, by rw [epf, estate]; exact h.buf,
    by rw [epf, estate]; exact h.base, by rw [epf, estate]; exact h.mhr, by rw [epf, estate]; exact h.absent,
    by rw [epf, estate]; exact h.security, by rw [epf, estate]; exact h.secured,
    by rw [epf, estate]; exact h.dispatch, by rw [epf, estate]; exact h.payload⟩

/-- With no frame held there is nothing more to say of it. -/
theorem State.Released.frameInv {s : State} (h : s.Released) : s.FrameInv := by
  obtain ⟨hvalid, hstate | hstate⟩ := h <;> constructor <;> simp [hvalid, hstate, RxState.holdsFrame]

/-- Outside mid-decode no frame is held. -/
theorem State.FrameInv.released {s : State} (h : s.FrameInv) (hm : s.rxState.midDecode = false) : s.Released := by
  have hvalid := h.valid
  cases hstate : s.rxState <;> rw [hstate] at hm hvalid
  case idle => exact ⟨hvalid, .inl hstate⟩
  case halted => exact ⟨hvalid, .inr hstate⟩
  all_goals cases hm

theorem State.FrameInv.parserStop {s : State} (h : s.FrameInv) : s.parserStop.FrameInv := by
  unfold State.parserStop
  split_ifs with hm
  · exact State.Released.frameInv ⟨by simp [State.discardToIdle], .inl rfl⟩
  · exact State.Released.frameInv ⟨(h.released (by simpa using hm)).valid, .inl rfl⟩

theorem State.FrameInv.haltedToIdle {s : State} (h : s.FrameInv) : s.haltedToIdle.FrameInv := by
  unfold State.haltedToIdle
  split_ifs with hs
  · exact State.Released.frameInv ⟨(h.released (by rw [hs]; rfl)).valid, .inl rfl⟩
  · exact h

/-! ## What an absent field reads -/

theorem addrBytes_eq_zero {mode : BitVec 2} : mode ≠ 2 → mode ≠ 3 → addrBytes mode = 0 := by
  revert mode
  decide

theorem micLenOf_le (level : BitVec 3) : micLenOf level ≤ 16 := by
  revert level
  decide

/-- Reading no bytes gives 0. -/
theorem State.ringLe_zero (s : State) (k : BitVec 4) (off : Nat) : s.ringLe k off 0 = 0 := rfl

/-- The header frame carries a sequence number or 0, and nothing yet of the addresses or the security header. -/
theorem State.headerFrame_absentZero {s : State} (hpf : s.pf = PartialFrame.empty) (b0 b1 : Byte) (fcf : Half) :
    (s.headerFrame b0 b1 fcf).AbsentZero where
  seq h := by simp_all [State.headerFrame]
  dstPan _ := by simp [State.headerFrame, hpf, PartialFrame.empty]
  srcPan _ := by simp [State.headerFrame, hpf, PartialFrame.empty]
  dstAddr _ _ := by simp [State.headerFrame, hpf, PartialFrame.empty]
  srcAddr _ _ := by simp [State.headerFrame, hpf, PartialFrame.empty]
  unsecured _ := by simp [PartialFrame.securityClear, State.headerFrame, hpf, PartialFrame.empty]
  counter _ := by simp [State.headerFrame, hpf, PartialFrame.empty]
  keyless _ := by simp [State.headerFrame, hpf, PartialFrame.empty]
  sourceless _ := by simp [State.headerFrame, hpf, PartialFrame.empty]

/-- An address the mode leaves out is read from no bytes (R313 corner case). -/
theorem State.addressFrame_absentZero {s : State} (h : s.pf.AbsentZero) : s.addressFrame.AbsentZero where
  seq := h.seq
  dstPan hp := by simpa [State.addressFrame, show s.pf.dstPanPresent = false from hp] using h.dstPan hp
  srcPan hp := by simpa [State.addressFrame, show s.pf.srcPanPresent = false from hp] using h.srcPan hp
  dstAddr h2 h3 := by
    simp [State.addressFrame, addrBytes_eq_zero (show s.pf.dstMode ≠ 2 from h2) h3, State.ringLe_zero]
  srcAddr h2 h3 := by
    simp [State.addressFrame, addrBytes_eq_zero (show s.pf.srcMode ≠ 2 from h2) h3, State.ringLe_zero]
  unsecured := h.unsecured
  counter := h.counter
  keyless := h.keyless
  sourceless := h.sourceless

/-- A secured frame keeps 0 in what its security header leaves out (R330, R331). -/
theorem State.securityFrame_absentZero {s : State} (h : s.pf.AbsentZero) (hsec : s.pf.fcf.getLsbD 3 = true)
    (sc : Byte) : (s.securityFrame sc).AbsentZero where
  seq := h.seq
  dstPan := h.dstPan
  srcPan := h.srcPan
  dstAddr := h.dstAddr
  srcAddr := h.srcAddr
  unsecured hf := absurd (hsec.symm.trans hf) (by decide)
  counter hc := by simp [State.securityFrame, show secFcSuppressed sc = true from hc]
  keyless hk := by
    simp [State.securityFrame, show secKeyIdMode sc = 0 from hk, keySourceLen, State.ringLe_zero]
  sourceless hk := by
    simp [State.securityFrame, show secKeyIdMode sc = 1 from hk, keySourceLen, State.ringLe_zero]

/-! ## The stages -/

/-- A frame that has passed R308's checks has a header that fits it. -/
theorem hdrMhrBase_le_of_startedChecks {c : Config} {b0 b1 : Byte} {fcf : Half}
    (h : startedChecks c b0 b1 fcf = none) : hdrMhrBase c.frameVersion fcf ≤ hdrMpduLen b0 b1 := by
  unfold startedChecks at h
  split_ifs at h
  omega

/-- The MPDU length fits its 11 bits. -/
theorem hdrMpduLen_lt (b0 b1 : Byte) : hdrMpduLen b0 b1 < 2048 :=
  lt_of_le_of_lt (Nat.sub_le _ _) (phrLength b0 b1).isLt

/-- The allocated frame (R306), from the empty one of PREAMBLE (R305). -/
theorem State.frameInv_allocated {s : State} (hpf : s.pf = PartialFrame.empty) {b0 b1 : Byte} {fcf : Half}
    (hchecks : startedChecks s.cfg b0 b1 fcf = none) :
    State.FrameInv { s with pf := s.headerFrame b0 b1 fcf, rxState := .addr } := by
  have hbase := hdrMhrBase_le_of_startedChecks hchecks
  have hlen := hdrMpduLen_lt b0 b1
  have hclear : (s.headerFrame b0 b1 fcf).securityClear := by
    simp [PartialFrame.securityClear, State.headerFrame, hpf, PartialFrame.empty]
  exact {
    valid := rfl
    started := nofun
    buf := fun _ => by simp [State.headerFrame, Nat.mod_eq_of_lt hlen]
    base := fun _ => ⟨by simp [State.headerFrame]; omega, by simp [State.headerFrame, hpf, PartialFrame.empty]⟩
    mhr := fun h => h.elim nofun nofun
    absent := fun _ => State.headerFrame_absentZero hpf b0 b1 fcf
    security := fun _ => hclear
    secured := nofun
    dispatch := fun _ => by simp [State.headerFrame, hpf, PartialFrame.empty]
    payload := nofun }

/-- The frame with its addresses read (R313): an unsecured one has no MIC, and its header ends here. -/
theorem State.FrameInv.passed {s : State} (h : s.FrameInv) (hs : s.rxState = .addr) (armed : Bool) :
    State.FrameInv { s with
      pf := { s.addressFrame with ackArmed := armed, mhrLen := s.addressFrame.mhrBase }
      rxState := if fcfSecurity s.addressFrame.fcf then .secHdr else .payload } := by
  have hheld : s.rxState.holdsFrame = true := by rw [hs]; rfl
  obtain ⟨hbase, hmic⟩ := h.base (.inl hs)
  have hzero := State.addressFrame_absentZero (h.absent hheld)
  have habsent : PartialFrame.AbsentZero { s.addressFrame with ackArmed := armed, mhrLen := s.addressFrame.mhrBase } :=
    ⟨hzero.seq, hzero.dstPan, hzero.srcPan, hzero.dstAddr, hzero.srcAddr, hzero.unsecured, hzero.counter,
      hzero.keyless, hzero.sourceless⟩
  have hbuf : s.addressFrame.buf.length = s.pf.mpduLen.toNat := by
    simpa [State.addressFrame] using h.buf hheld
  have hvalid : s.pf.valid = true := h.valid.trans hheld
  split_ifs with hsec
  · exact {
      valid := hvalid
      started := nofun
      buf := fun _ => hbuf
      base := fun _ => ⟨hbase, hmic⟩
      mhr := fun h => h.elim nofun nofun
      absent := fun _ => habsent
      security := fun _ => h.security (.inl hs)
      secured := fun _ => hsec
      dispatch := fun _ => h.dispatch hheld
      payload := nofun }
  · exact {
      valid := hvalid
      started := nofun
      buf := fun _ => hbuf
      base := fun h => h.elim nofun nofun
      mhr := fun _ => by simpa [State.addressFrame, hmic] using hbase
      absent := fun _ => habsent
      security := fun h => h.elim nofun nofun
      secured := nofun
      dispatch := fun _ => h.dispatch hheld
      payload := nofun }

/-- The frame with its security header read (R331): header and MIC fit the frame. -/
theorem State.FrameInv.securityRead {s : State} (h : s.FrameInv) (hs : s.rxState = .secHdr) {sc : Byte}
    (hlen : s.pf.mhrBase.toNat + auxLen sc + micLenOf (secLevel sc) ≤ s.pf.mpduLen.toNat) :
    State.FrameInv { s with pf := s.securityFrame sc, rxState := .payload } := by
  have hheld : s.rxState.holdsFrame = true := by rw [hs]; rfl
  have hmax := s.pf.mpduLen.isLt
  have hmic := micLenOf_le (secLevel sc)
  exact {
    valid := h.valid.trans hheld
    started := nofun
    buf := fun _ => by simpa [State.securityFrame] using h.buf hheld
    base := fun h => h.elim nofun nofun
    mhr := fun _ => by simp [State.securityFrame]; omega
    absent := fun _ => State.securityFrame_absentZero (h.absent hheld) (h.secured hs) sc
    security := fun h => h.elim nofun nofun
    secured := nofun
    dispatch := fun _ => h.dispatch hheld
    payload := nofun }

/-- The frame with its payload copied (R340): payloadLen is what the header leaves. -/
theorem State.FrameInv.payloadCopied {s : State} (h : s.FrameInv) (hs : s.rxState = .payload) :
    State.FrameInv { s with pf := s.payloadFrame, rxState := .trailer } := by
  have hheld : s.rxState.holdsFrame = true := by rw [hs]; rfl
  have hmax := s.pf.mpduLen.isLt
  have hmhr := h.mhr (.inl hs)
  have hzero := h.absent hheld
  exact {
    valid := h.valid.trans hheld
    started := nofun
    buf := fun _ => by simpa [State.payloadFrame] using h.buf hheld
    base := fun h => h.elim nofun nofun
    mhr := fun _ => hmhr
    absent := fun _ => ⟨hzero.seq, hzero.dstPan, hzero.srcPan, hzero.dstAddr, hzero.srcAddr, hzero.unsecured,
      hzero.counter, hzero.keyless, hzero.sourceless⟩
    security := fun h => h.elim nofun nofun
    secured := nofun
    dispatch := fun _ => h.dispatch hheld
    payload := fun _ => by simp [State.payloadFrame]; omega }

/-- The step of the current stage: a discard, or the next stage's frame (R301). -/
theorem State.FrameInv.stageStep {s : State} (h : s.FrameInv) : s.stageStep.FrameInv := by
  unfold State.stageStep
  cases hs : s.rxState with
  | started =>
    obtain ⟨u, r, -, e⟩ | ⟨b0, b1, hchecks, e⟩ := s.hdrStep_cases
    · exact e ▸ (u.discard_released r).frameInv
    · have hcfg : s.drawAllocOk.2.cfg = s.cfg := by simp
      exact e ▸ State.frameInv_allocated (by simpa using h.started hs) (hcfg.symm ▸ hchecks)
  | addr =>
    obtain ⟨u, r, -, e⟩ | e := s.addrStep_cases
    · exact e ▸ (u.discard_released r).frameInv
    · obtain ⟨armed, hpf⟩ := State.addrPass_pf { s with pf := s.addressFrame }
      exact e ▸ (h.passed hs armed).congr (by
        rw [State.frameView, State.frameView, hpf, State.addrPass_rxState])
  | secHdr =>
    obtain ⟨r, e⟩ | ⟨hlen, e⟩ := s.secHdrStep_cases
    · exact e ▸ (s.discard_released r).frameInv
    · exact e ▸ h.securityRead hs hlen
  | payload =>
    obtain e | e := s.payloadStep_cases
    · exact e ▸ (s.discard_released .length).frameInv
    · exact e ▸ h.payloadCopied hs
  | idle | trailer | halted => exact h

/-! ## The events -/

theorem State.FrameInv.endFrame {s : State} (h : s.FrameInv) : s.endFrame.FrameInv := by
  have hstages : s.runDueStages.FrameInv := h.stageStep.stageStep.stageStep.stageStep
  unfold State.endFrame
  dsimp only
  split_ifs
  · exact s.runDueStages.trailerAndDispatch_released.frameInv.haltedToIdle
  · exact hstages.haltedToIdle

theorem State.FrameInv.unexpectedEnd {s : State} (h : s.FrameInv) : s.unexpectedEnd.FrameInv := h.congr (by simp)

theorem State.FrameInv.frameOkEvent {s : State} (h : s.FrameInv) : s.frameOkEvent.FrameInv := by
  unfold State.frameOkEvent
  cases s.rxState with
  | idle => exact h.unexpectedEnd
  | halted => exact h.haltedToIdle
  | started | addr | secHdr | payload | trailer => exact h.endFrame

theorem State.discardToIdle_frameInv (s : State) (r : DiagReason) : (s.discardToIdle r).FrameInv :=
  State.Released.frameInv ⟨(s.discard_released r).valid, .inl rfl⟩

theorem State.FrameInv.badCrcEvent {s : State} (h : s.FrameInv) : s.badCrcEvent.FrameInv := by
  unfold State.badCrcEvent
  split_ifs
  · exact s.discardToIdle_frameInv .crcBad
  · exact h.unexpectedEnd
  · exact h.haltedToIdle

theorem State.FrameInv.bufFullEvent {s : State} (h : s.FrameInv) : s.bufFullEvent.FrameInv := by
  unfold State.bufFullEvent
  split_ifs
  · exact s.discardToIdle_frameInv .bufferFull
  · exact h.congr (by simp)
  · exact h.haltedToIdle

/-- PREAMBLE starts from the empty frame (R305). -/
theorem State.FrameInv.preambleEvent {s : State} (h : s.FrameInv) : s.preambleEvent.FrameInv := by
  unfold State.preambleEvent
  dsimp only
  split
  · constructor <;> simp [RxState.holdsFrame, PartialFrame.empty]
  · exact h.congr (by simp)

/-- Of the terminal events only that of RX touches the frame (R362). -/
theorem State.FrameInv.terminal {s : State} (h : s.FrameInv) {p : Slot} (kind : EndKind)
    (hp : s.inflight.get p = true) : (s.terminal p kind).FrameInv := by
  have hretired : ((s.memberStatuses (s.inflightChain p) kind).retire p (s.inflightChain p)).FrameInv :=
    h.congr (by simp)
  rw [State.terminal, if_pos hp]
  dsimp only
  unfold State.principalEnd
  split
  · exact hretired.parserStop
  · exact hretired.congr (by simp)
  · exact hretired.congr (by simp)
  · exact hretired

/-- The receive rules keep the invariant; the other rules leave the frame alone. -/
theorem frameInv_keptByRules : KeptByRules State.FrameInv where
  congr e h := h.congr (by simp_all)
  initialise _ _ _ := State.Released.frameInv ⟨by simp [PartialFrame.empty], by simp⟩
  initFails _ h _ := h.congr rfl
  submitRx _ _ _ h _ := h.congr (by simp)
  submitTx _ _ _ _ _ _ h _ := h.congr (by simp)
  submitNoop _ _ h _ := h.congr (by simp)
  parserStop _ h := h.parserStop
  record _ _ h _ := h.congr (by simp)
  advance _ h := h.congr (by simp)
  preamble _ h := h.preambleEvent
  frameOk _ _ h := h.frameOkEvent
  badCrc _ h := h.badCrcEvent
  bufFull _ h := h.bufFullEvent
  terminal _ _ kind h _ hp := h.terminal kind hp
  stage _ _ h := h.stageStep

/-- Settles O51: each stage hands the next one a frame of the shape that stage expects, or releases it. -/
theorem frameInvKept : Obligations.FrameInvKept := fun _ _ h hstep => frameInv_keptByRules.step h hstep

end Sys2Proof.Machine
end

section
/-!
PROOFS. O50: the outstanding counters and the in-flight bits (10_state.md R36, R37; 40_scheduler.md R233, R268).
-/

namespace Sys2Proof.Machine

/-! ## Chains -/

theorem mem_principals {p : Slot} : p ∈ principals ↔ p = .rx ∨ p = .tx ∨ p = .ack ∨ p = .noop := by
  simp [principals]

/-- A principal is a member of its own chain. -/
theorem self_mem_chainSlots {p : Slot} (hp : p ∈ principals) : p ∈ chainSlots p := by
  obtain rfl | rfl | rfl | rfl := mem_principals.mp hp <;> decide

/-- Chains of different principals share no slot. -/
theorem not_mem_chainSlots {p q x : Slot} (hp : p ∈ principals) (hq : q ∈ principals) (hne : q ≠ p)
    (hx : x ∈ chainSlots q) : x ∉ chainSlots p := by
  obtain rfl | rfl | rfl | rfl := mem_principals.mp hp <;> obtain rfl | rfl | rfl | rfl := mem_principals.mp hq <;>
    revert hne hx <;> cases x <;> decide

/-- No chain holds SETUP or a timer-compare slot. -/
theorem unused_not_mem_chainSlots (p : Slot) :
    Slot.setup ∉ chainSlots p ∧ Slot.tcA ∉ chainSlots p ∧ Slot.tcB ∉ chainSlots p := by
  cases p <;> decide

/-- Setting the bits of a list of slots. -/
theorem PerSlot.get_setAll_true (m : PerSlot Bool) (l : List Slot) (x : Slot) :
    (m.setAll true l).get x = (m.get x || decide (x ∈ l)) := by
  rw [PerSlot.get_setAll]
  by_cases h : x ∈ l <;> simp [h]

/-- Clearing the bits of the chain of `p` that are set clears the whole chain. -/
theorem State.get_setAll_inflightChain (s : State) (p x : Slot) :
    (s.inflight.setAll false (s.inflightChain p)).get x = (s.inflight.get x && decide (x ∉ chainSlots p)) := by
  rw [PerSlot.get_setAll]
  by_cases h : x ∈ chainSlots p <;> cases hx : s.inflight.get x <;> simp [State.inflightChain, h, hx]

/-! ## Counting the principals in flight -/

theorem State.inFlightPrincipals_eq (s : State) :
    s.inFlightPrincipals = (s.inflight.get .rx).toNat + (s.inflight.get .tx).toNat + (s.inflight.get .ack).toNat +
      (s.inflight.get .noop).toNat := by
  simp only [State.inFlightPrincipals, principals, List.filter_cons, List.filter_nil]
  split_ifs <;> simp_all

theorem State.inFlightPrincipals_le (s : State) : s.inFlightPrincipals ≤ 4 := List.length_filter_le _ _

/-- One principal more in flight counts one more. -/
theorem State.inFlightPrincipals_succ {s t : State} {p : Slot} (hp : p ∈ principals) (hs : s.inflight.get p = false)
    (ht : t.inflight.get p = true) (other : ∀ q ∈ principals, q ≠ p → t.inflight.get q = s.inflight.get q) :
    t.inFlightPrincipals = s.inFlightPrincipals + 1 := by
  obtain rfl | rfl | rfl | rfl := mem_principals.mp hp
  all_goals
    simp [principals] at other
    simp only [State.inFlightPrincipals_eq, hs, ht, other, Bool.toNat_true, Bool.toNat_false] <;> omega

/-! ## What keeps the invariant -/

/-- The counters and bits of the scheduler. -/
@[simp] def State.flightView (s : State) := (s.init, s.fatal, s.cntTotal, s.cntRx, s.inflight)

/-- A chain's slot is in flight only while its principal is (R268). -/
theorem State.FlightInv.principal {s : State} (h : s.FlightInv) {p x : Slot} (hp : p ∈ principals)
    (hx : x ∈ chainSlots p) (hin : s.inflight.get x = true) : s.inflight.get p = true := by
  obtain rfl | rfl | rfl | rfl := mem_principals.mp hp <;> simp [chainSlots] at hx
  · obtain rfl | rfl := hx
    · exact h.fsRx hin
    · exact hin
  · obtain rfl | rfl | rfl := hx
    · exact h.fsTx hin
    · exact h.cca hin
    · exact hin
  · exact hx ▸ hin
  · exact hx ▸ hin

/-- Nothing in flight or queued changes, and no frame is begun without RX. -/
theorem State.FlightInv.congr {s t : State} (h : s.FlightInv) (e : t.flightView = s.flightView)
    (ack : t.ackQueued = true → s.ackQueued = true) (frame : t.rxState ≠ .idle → s.inflight.rx = true) :
    t.FlightInv := by
  obtain ⟨einit, efatal, etotal, erx, eflight⟩ : t.init = s.init ∧ t.fatal = s.fatal ∧ t.cntTotal = s.cntTotal ∧
    t.cntRx = s.cntRx ∧ t.inflight = s.inflight := by simpa using e
  exact {
    total := by rw [etotal, State.inFlightPrincipals, eflight]; exact h.total
    rx := by rw [erx, eflight]; exact h.rx
    fsRx := by rw [eflight]; exact h.fsRx
    fsTx := by rw [eflight]; exact h.fsTx
    cca := by rw [eflight]; exact h.cca
    never := by rw [eflight]; exact h.never
    ack := fun ha => by rw [eflight]; exact h.ack (ack ha)
    frame := fun hf => by rw [eflight]; exact frame hf
    down := by rw [einit, efatal, etotal]; exact h.down
    fatal := by rw [einit, efatal]; exact h.fatal }

/-- The fields the flight invariant reads. -/
@[simp] def State.schedulerView (s : State) := (s.flightView, s.ackQueued, s.rxState)

theorem State.FlightInv.of_view {s t : State} (h : s.FlightInv) (e : t.schedulerView = s.schedulerView) :
    t.FlightInv := by
  obtain ⟨eflight, equeued, estate⟩ : t.flightView = s.flightView ∧ t.ackQueued = s.ackQueued ∧
    t.rxState = s.rxState := by simpa only [State.schedulerView, Prod.mk.injEq] using e
  exact h.congr eflight (fun ha => equeued ▸ ha) fun hf => h.frame (estate ▸ hf)

/-- The chain of one principal changes and no other: what an acceptance and a terminal event have in common. -/
theorem State.FlightInv.of_chain {s t : State} (h : s.FlightInv) {p : Slot} (hp : p ∈ principals)
    (other : ∀ x, x ∉ chainSlots p → t.inflight.get x = s.inflight.get x)
    (own : ∀ x ∈ chainSlots p, t.inflight.get x = true → t.inflight.get p = true)
    (total : t.cntTotal.toNat = t.inFlightPrincipals) (rx : t.cntRx = if t.inflight.rx then 1 else 0)
    (ack : t.ackQueued = true → t.inflight.ack = true) (frame : t.rxState ≠ .idle → t.inflight.rx = true)
    (ready : t.ready) : t.FlightInv := by
  have member {q x : Slot} (hq : q ∈ principals) (hx : x ∈ chainSlots q) (hin : t.inflight.get x = true) :
      t.inflight.get q = true := by
    by_cases hqp : q = p
    · subst hqp
      exact own x hx hin
    · rw [other x (not_mem_chainSlots hp hq hqp hx)] at hin
      rw [other q (not_mem_chainSlots hp hq hqp (self_mem_chainSlots hq))]
      exact h.principal hq hx hin
  obtain ⟨hsetup, htcA, htcB⟩ := unused_not_mem_chainSlots p
  exact {
    total := total
    rx := rx
    fsRx := member (q := .rx) (x := .fsRx) (by decide) (by decide)
    fsTx := member (q := .tx) (x := .fsTx) (by decide) (by decide)
    cca := member (q := .tx) (x := .cca) (by decide) (by decide)
    never := ⟨(other _ hsetup).trans h.never.1, (other _ htcA).trans h.never.2.1, (other _ htcB).trans h.never.2.2⟩
    ack := ack
    frame := frame
    down := by simp [ready.1, ready.2]
    fatal := fun _ => ready.1 }

/-- A chain whose principal is free goes in flight and counts once (R232). -/
theorem State.FlightInv.accepted {s t : State} (h : s.FlightInv) (hr : s.ready) {p : Slot} {m : List Slot}
    (hp : p ∈ principals) (hfree : s.inflight.get p = false) (hin : p ∈ m) (hm : ∀ x ∈ m, x ∈ chainSlots p)
    (e : t.flightView =
      (s.init, s.fatal, s.cntTotal + 1, if p = .rx then s.cntRx + 1 else s.cntRx, s.inflight.setAll true m))
    (ack : t.ackQueued = true → s.ackQueued = true ∨ p = .ack) (frame : t.rxState = s.rxState) : t.FlightInv := by
  obtain ⟨einit, efatal, etotal, erx, eflight⟩ : t.init = s.init ∧ t.fatal = s.fatal ∧
    t.cntTotal = s.cntTotal + 1 ∧ t.cntRx = (if p = .rx then s.cntRx + 1 else s.cntRx) ∧
    t.inflight = s.inflight.setAll true m := by simpa using e
  have hget (x : Slot) : t.inflight.get x = (s.inflight.get x || decide (x ∈ m)) := by
    rw [eflight, PerSlot.get_setAll_true]
  have hset : t.inflight.get p = true := by simp [hget, hin]
  have other (x : Slot) (hx : x ∉ chainSlots p) : t.inflight.get x = s.inflight.get x := by
    simp [hget, mt (hm x) hx]
  have mono {x : Slot} (hx : s.inflight.get x = true) : t.inflight.get x = true := by simp [hget, hx]
  have hprincipals := State.inFlightPrincipals_succ hp hfree hset fun q hq hne =>
    other q (not_mem_chainSlots hp hq hne (self_mem_chainSlots hq))
  refine h.of_chain hp other (fun _ _ _ => hset) ?_ ?_ ?_ (fun hf => mono (x := .rx) (h.frame (frame ▸ hf)))
    ⟨einit.trans hr.1, efatal.trans hr.2⟩
  · have hle := t.inFlightPrincipals_le
    have htotal := h.total
    rw [etotal, BitVec.toNat_add]
    simp
    omega
  · rw [erx]
    by_cases hprx : p = .rx
    · subst hprx
      simp [h.rx, show s.inflight.rx = false from hfree, show t.inflight.rx = true from hset]
    · have hrx : t.inflight.rx = s.inflight.rx :=
        other .rx (not_mem_chainSlots hp (by decide) (Ne.symm hprx) (self_mem_chainSlots (by decide)))
      simp [hprx, h.rx, hrx]
  · intro ha
    obtain ha | rfl := ack ha
    · exact mono (x := .ack) (h.ack ha)
    · exact hset

/-- The chain of a principal in flight ends and no longer counts (R260). -/
theorem State.FlightInv.retired {s t : State} (h : s.FlightInv) {p : Slot} (hp : p ∈ principals)
    (hin : s.inflight.get p = true)
    (e : t.flightView =
      (s.init, s.fatal, s.cntTotal - 1, if p = .rx then s.cntRx - 1 else s.cntRx,
        s.inflight.setAll false (s.inflightChain p)))
    (ack : t.ackQueued = true → s.ackQueued = true ∧ p ≠ .ack)
    (frame : t.rxState ≠ .idle → s.rxState ≠ .idle ∧ p ≠ .rx) : t.FlightInv := by
  obtain ⟨einit, efatal, etotal, erx, eflight⟩ : t.init = s.init ∧ t.fatal = s.fatal ∧
    t.cntTotal = s.cntTotal - 1 ∧ t.cntRx = (if p = .rx then s.cntRx - 1 else s.cntRx) ∧
    t.inflight = s.inflight.setAll false (s.inflightChain p) := by simpa using e
  have hget (x : Slot) : t.inflight.get x = (s.inflight.get x && decide (x ∉ chainSlots p)) := by
    rw [eflight, State.get_setAll_inflightChain]
  have hclear : t.inflight.get p = false := by simp [hget, self_mem_chainSlots hp]
  have other (x : Slot) (hx : x ∉ chainSlots p) : t.inflight.get x = s.inflight.get x := by simp [hget, hx]
  have principal {q : Slot} (hq : q ∈ principals) (hne : q ≠ p) : t.inflight.get q = s.inflight.get q :=
    other q (not_mem_chainSlots hp hq hne (self_mem_chainSlots hq))
  have hprincipals := State.inFlightPrincipals_succ hp hclear hin fun q hq hne => (principal hq hne).symm
  have htotal := h.total
  have hdown : ¬(s.init = false ∨ s.fatal = true) := fun hd => by
    have := h.down hd
    simp_all
  refine h.of_chain hp other (fun x hx hxt => ?_) ?_ ?_ (fun ha => ?_) (fun hf => ?_)
    ⟨by rw [einit]; simp_all, by rw [efatal]; simp_all⟩
  · simp [hget, hx] at hxt
  · have hle := s.inFlightPrincipals_le
    rw [etotal, BitVec.toNat_sub]
    simp
    omega
  · rw [erx]
    by_cases hprx : p = .rx
    · subst hprx
      simp [h.rx, show s.inflight.rx = true from hin, show t.inflight.rx = false from hclear]
    · have hrx : t.inflight.rx = s.inflight.rx := principal (by decide) (Ne.symm hprx)
      simp [hprx, h.rx, hrx]
  · obtain ⟨ha, hne⟩ := ack ha
    exact (principal (q := .ack) (by decide) (Ne.symm hne)).trans (h.ack ha)
  · obtain ⟨hf, hne⟩ := frame hf
    exact (principal (q := .rx) (by decide) (Ne.symm hne)).trans (h.frame hf)

/-! ## Submissions -/

theorem State.FlightInv.doSubmitRx {s : State} (h : s.FlightInv) (hr : s.ready) (ch : Half)
    (hfree : s.inflight.rx = false) : (s.doSubmitRx ch).2.FlightInv := by
  have hchain : .rx ∈ s.rxChain ch ∧ ∀ x ∈ s.rxChain ch, x ∈ chainSlots .rx := by
    unfold State.rxChain
    split <;> decide
  rw [State.doSubmitRx_eq]
  dsimp only
  split
  · exact h.accepted hr (p := .rx) (by decide) hfree hchain.1 hchain.2 (by simp) (by simp) (by simp)
  · exact h.of_view (by simp)

theorem State.FlightInv.doSubmitTx {s : State} (h : s.FlightInv) (hr : s.ready) (ch : Half) (f : BitVec 4)
    (a0 a1 : Word) (hfree : s.inflight.tx = false) : (s.doSubmitTx ch f a0 a1).2.FlightInv := by
  have hchain : .tx ∈ s.txChain ch (f.getLsbD 1) ∧ ∀ x ∈ s.txChain ch (f.getLsbD 1), x ∈ chainSlots .tx := by
    unfold State.txChain
    split <;> split <;> decide
  rw [State.doSubmitTx_eq]
  dsimp only
  split
  · split
    · exact h.accepted hr (p := .tx) (by decide) hfree hchain.1 hchain.2 (by simp) (by simp) (by simp)
    · exact h.of_view (by simp)
  · exact h

theorem State.FlightInv.doSubmitNoop {s : State} (h : s.FlightInv) (hr : s.ready) (hfree : s.inflight.noop = false) :
    s.doSubmitNoop.2.FlightInv := by
  rw [State.doSubmitNoop_eq]
  dsimp only
  split
  · exact h.accepted hr (p := .noop) (m := [.noop]) (by decide) hfree (by decide) (by decide) (by simp) (by simp)
      (by simp)
  · exact h.of_view (by simp)

/-- ackAccepted(), and the mark the kind of acknowledgment leaves in the partial frame (R322, R353). -/
theorem State.FlightInv.ackAccepted {s : State} (h : s.FlightInv) (hr : s.ready) (hfree : s.inflight.ack = false)
    (f : PartialFrame) : State.FlightInv { s.onAccepted .ack [.ack] with ackQueued := true, pf := f } :=
  h.accepted hr (p := .ack) (m := [.ack]) (by decide) hfree (by decide) (by decide) (by simp) (by simp) (by simp)

theorem State.FlightInv.submitImmAck {s : State} (h : s.FlightInv) (hr : s.ready) : s.submitImmAck.FlightInv := by
  rw [State.submitImmAck_eq]
  dsimp only
  split_ifs with hack
  · exact h.of_view (by simp)
  · exact (h.of_view (by simp)).ackAccepted (by simpa [State.ready] using hr) (by simpa using hack) _
  · exact h.of_view (by simp)

theorem State.FlightInv.submitEnhAck {s : State} (h : s.FlightInv) (hr : s.ready) : s.submitEnhAck.FlightInv := by
  rw [State.submitEnhAck_eq]
  dsimp only
  split_ifs with hack
  · exact h.of_view (by simp)
  · exact (h.of_view (by simp)).ackAccepted (by simpa [State.ready] using hr) (by simpa using hack) _
  · exact h.of_view (by simp)

/-! ## The receive machine -/

theorem State.FlightInv.discard {s : State} (h : s.FlightInv) (hs : s.rxState ≠ .idle) (r : DiagReason) :
    (s.discard r).FlightInv := h.congr (by simp) (by simp_all) fun _ => h.frame hs

theorem State.FlightInv.discardToIdle {s : State} (h : s.FlightInv) (r : DiagReason) :
    (s.discardToIdle r).FlightInv := h.congr (by simp) (by simp_all [State.discardToIdle]) fun hf => absurd rfl hf

theorem State.FlightInv.parserStop {s : State} (h : s.FlightInv) : s.parserStop.FlightInv := by
  unfold State.parserStop
  split_ifs
  · exact h.discardToIdle .aborted
  · exact h.congr rfl id fun hf => absurd rfl hf

theorem State.FlightInv.haltedToIdle {s : State} (h : s.FlightInv) : s.haltedToIdle.FlightInv := by
  unfold State.haltedToIdle
  split_ifs
  · exact h.congr rfl id fun hf => absurd rfl hf
  · exact h

theorem State.FlightInv.finishFrame {s : State} (h : s.FlightInv) : s.finishFrame.FlightInv :=
  h.congr (by simp) (by simp) fun hf => absurd rfl hf

theorem State.FlightInv.addrPass {s : State} (h : s.FlightInv) (hr : s.ready) (hs : s.rxState ≠ .idle) :
    s.addrPass.FlightInv := by
  unfold State.addrPass
  dsimp only
  split_ifs
  · exact (h.submitImmAck hr).congr rfl id fun _ => (h.submitImmAck hr).frame (by simpa using hs)
  · exact (h.submitImmAck hr).congr rfl id fun _ => (h.submitImmAck hr).frame (by simpa using hs)
  · exact h.congr rfl id fun _ => h.frame hs
  · exact h.congr rfl id fun _ => h.frame hs

/-- The step of the current stage (R301). -/
theorem State.FlightInv.stageStep {s : State} (h : s.FlightInv) (hr : s.ready) : s.stageStep.FlightInv := by
  unfold State.stageStep
  cases hs : s.rxState with
  | idle | trailer | halted => exact h
  | started =>
    have hne : s.rxState ≠ .idle := by simp [hs]
    obtain ⟨u, r, hu, e⟩ | ⟨b0, b1, -, e⟩ := s.hdrStep_cases
    · exact e ▸ (h.of_view (t := u) (by simp_all)).discard (by simp_all) r
    · exact e ▸ h.congr (by simp) (by simp) fun _ => h.frame hne
  | addr =>
    have hne : s.rxState ≠ .idle := by simp [hs]
    have hread : State.FlightInv { s with pf := s.addressFrame } := h.of_view rfl
    obtain ⟨u, r, rfl | rfl, e⟩ | e := s.addrStep_cases
    · exact e ▸ h.discard hne r
    · exact e ▸ hread.discard hne r
    · exact e ▸ hread.addrPass hr hne
  | secHdr =>
    have hne : s.rxState ≠ .idle := by simp [hs]
    obtain ⟨r, e⟩ | ⟨-, e⟩ := s.secHdrStep_cases
    · exact e ▸ h.discard hne r
    · exact e ▸ h.congr rfl id fun _ => h.frame hne
  | payload =>
    have hne : s.rxState ≠ .idle := by simp [hs]
    obtain e | e := s.payloadStep_cases
    · exact e ▸ h.discard hne .length
    · exact e ▸ h.congr rfl id fun _ => h.frame hne

theorem State.stageStep_ready {s : State} (hr : s.ready) : s.stageStep.ready := by simpa [State.ready] using hr

theorem State.FlightInv.ackConsume {s : State} (h : s.FlightInv) (hs : s.rxState ≠ .idle) :
    s.ackConsume.FlightInv := by
  unfold State.ackConsume
  split_ifs
  · exact State.FlightInv.finishFrame (h.of_view rfl)
  · exact h.discard hs .ackUnmatched

theorem State.FlightInv.deliver {s : State} (h : s.FlightInv) : s.deliver.FlightInv :=
  State.FlightInv.finishFrame (h.of_view rfl)

theorem State.FlightInv.ackAndDeliver {s : State} (h : s.FlightInv) (hr : s.ready) : s.ackAndDeliver.FlightInv := by
  unfold State.ackAndDeliver
  split_ifs
  · exact (h.submitEnhAck hr).deliver
  · exact h.deliver

theorem State.FlightInv.dispatchFrame {s : State} (h : s.FlightInv) (hr : s.ready) (hs : s.rxState ≠ .idle) :
    s.dispatchFrame.FlightInv := by
  unfold State.dispatchFrame
  split_ifs
  · split
    · exact State.FlightInv.ackAndDeliver (h.of_view rfl) hr
    · exact h.discard hs .ieMalformed
    · exact h.discard hs .ieZeroLen
  · exact h.ackAndDeliver hr

theorem State.FlightInv.trailerAndDispatch {s : State} (h : s.FlightInv) (hr : s.ready) (hs : s.rxState ≠ .idle) :
    s.trailerAndDispatch.FlightInv := by
  have hread : State.FlightInv { s with pf := s.trailerFrame } := h.of_view rfl
  unfold State.trailerAndDispatch
  dsimp only
  split_ifs
  · exact h.discard hs .unexpectedEvent
  · exact hread.ackConsume hs
  · exact hread.dispatchFrame hr hs

theorem State.FlightInv.endFrame {s : State} (h : s.FlightInv) (hr : s.ready) : s.endFrame.FlightInv := by
  have hr1 := State.stageStep_ready hr
  have hr2 := State.stageStep_ready hr1
  have hr3 := State.stageStep_ready hr2
  have hstages : s.runDueStages.FlightInv := (((h.stageStep hr).stageStep hr1).stageStep hr2).stageStep hr3
  unfold State.endFrame
  dsimp only
  split_ifs with ht
  · exact (hstages.trailerAndDispatch (State.stageStep_ready hr3) (by simp [ht])).haltedToIdle
  · exact hstages.haltedToIdle

/-! ## The events -/

theorem State.FlightInv.frameOkEvent {s : State} (h : s.FlightInv) (hr : s.ready) : s.frameOkEvent.FlightInv := by
  unfold State.frameOkEvent
  cases s.rxState with
  | idle => exact h.of_view (by simp)
  | halted => exact h.haltedToIdle
  | started | addr | secHdr | payload | trailer => exact h.endFrame hr

theorem State.FlightInv.badCrcEvent {s : State} (h : s.FlightInv) : s.badCrcEvent.FlightInv := by
  unfold State.badCrcEvent
  split_ifs
  · exact h.discardToIdle .crcBad
  · exact h.of_view (by simp)
  · exact h.haltedToIdle

theorem State.FlightInv.bufFullEvent {s : State} (h : s.FlightInv) : s.bufFullEvent.FlightInv := by
  unfold State.bufFullEvent
  split_ifs
  · exact h.discardToIdle .bufferFull
  · exact h.of_view (by simp)
  · exact h.haltedToIdle

/-- PREAMBLE starts a frame only with RX in flight (R305). -/
theorem State.FlightInv.preambleEvent {s : State} (h : s.FlightInv) : s.preambleEvent.FlightInv := by
  unfold State.preambleEvent
  dsimp only
  split_ifs with hrx
  · exact h.congr (by simp) (by simp_all) fun _ => hrx
  · exact h.congr rfl id fun _ => hrx
  · exact h.of_view (by simp)

theorem State.rxEnd_idle (s : State) :
    s.rxEnd.rxState = .idle ∧ (s.rxEnd.ackQueued = true → s.ackQueued = true) := by
  unfold State.rxEnd State.discardToIdle
  split_ifs <;> simp_all

theorem State.ackEnd_ackQueued (s : State) (kind : EndKind) : (s.ackEnd kind).ackQueued = false := by
  unfold State.ackEnd
  dsimp only
  split_ifs <;> simp

/-- The end of a principal takes back what it alone owed: RX its frame, ACK the queued acknowledgment (R260). -/
theorem State.principalEnd_owes (s : State) (p : Slot) (kind : EndKind) :
    ((s.principalEnd p kind).ackQueued = true → s.ackQueued = true ∧ p ≠ .ack) ∧
      ((s.principalEnd p kind).rxState ≠ .idle → s.rxState ≠ .idle ∧ p ≠ .rx) := by
  cases p with
  | rx => exact ⟨fun ha => ⟨s.rxEnd_idle.2 ha, by decide⟩, fun hf => absurd s.rxEnd_idle.1 hf⟩
  | ack => simp [State.principalEnd, State.ackEnd_ackQueued]
  | tx | noop | setup | fsRx | fsTx | cca | tcA | tcB => simp [State.principalEnd]

theorem State.FlightInv.terminal {s : State} (h : s.FlightInv) {p : Slot} (kind : EndKind) (hp : p ∈ principals)
    (hin : s.inflight.get p = true) : (s.terminal p kind).FlightInv := by
  rw [State.terminal, if_pos hin]
  dsimp only
  refine h.retired hp hin (by simp) (fun ha => ?_) fun hf => ?_
  · simpa using (State.principalEnd_owes _ p kind).1 ha
  · simpa using (State.principalEnd_owes _ p kind).2 hf

/-! ## Every step -/

/-- INIT leaves nothing in flight (R541). -/
theorem State.initialise_flightInv {s : State} (hf : s.fatal = false) : s.initialise.FlightInv := by
  constructor <;> simp [State.inFlightPrincipals_eq, PerSlot.all, PerSlot.get, hf]

/-- The scheduler's rules and the receive machine keep the invariant; the other rules leave its fields alone. -/
theorem flightInv_keptByRules : KeptByRules State.FlightInv where
  congr e h := h.of_view (by simp_all)
  initialise _ _ hf := State.initialise_flightInv hf
  initFails s h hidle := {
    h with
    down := fun _ => hidle.elim (fun hi => h.down (.inl hi)) id
    fatal := fun _ => rfl }
  submitRx _ ch hr h hfree := h.doSubmitRx hr ch hfree
  submitTx _ ch f a0 a1 hr h hfree := h.doSubmitTx hr ch f a0 a1 hfree
  submitNoop _ hr h hfree := h.doSubmitNoop hr hfree
  parserStop _ h := h.parserStop
  record _ _ h _ := h.of_view (by simp)
  advance _ h := h.of_view (by simp)
  preamble _ h := h.preambleEvent
  frameOk _ hr h := h.frameOkEvent hr
  badCrc _ h := h.badCrcEvent
  bufFull _ h := h.bufFullEvent
  terminal _ _ kind h hp hin := h.terminal kind hp hin
  stage _ hr h := h.stageStep hr

/-- Settles O50: an accepted chain and a terminal event move the counters and the bits of one principal together
(`State.FlightInv.accepted`, `State.FlightInv.retired`). -/
theorem flightInvKept : Obligations.FlightInvKept := fun _ _ h hstep => flightInv_keptByRules.step h hstep

end Sys2Proof.Machine
end

section
/-!
PROOFS. O5 and O55: what a step runs, and the machine at power-on.
-/

namespace Sys2Proof.Machine

/-! ## What a step runs (O5) -/

/-- With a move scheduled, a step makes that move (log entry 7). -/
theorem step_of_sched {s : State} {m : Move} {rest : List Move} (hc : s.cfg.admitted = true)
    (hs : s.sched = m :: rest) : step s = runMove m { s with sched := rest } := by
  rw [step, if_pos hc, hs]

/-- A host write of CMD runs the word's instruction (30_encoding.md R151, R155). -/
theorem runMove_cmd {w : Word} {i : Instr} (h : decodeCmd w = .ok i) (s : State) :
    runMove (.regWrite 4 0x000 w) s = exec i s := by
  have hlisted : s.regListed 0 = true := rfl
  simp [runMove, State.hostWrite, hlisted, writeReg, cmdWrite, h]

/-- The radio's delivery of an event word runs its instruction (R161). -/
theorem runMove_evt {w : Word} {i : Instr} (h : decodeEvt w = .ok i) (s : State) :
    runMove (.event w) s = exec i s := by
  simp [runMove, eventWord, h]

/-- The move that delivers a word runs what the word decodes to at its port (log entry 13). -/
theorem runMove_moveOfWord {w : Word} {i : Instr} (h : decode (portOf w) w = .ok i) (s : State) :
    runMove (moveOfWord w) s = exec i s := by
  unfold moveOfWord
  cases hp : portOf w <;> rw [hp] at h
  · exact runMove_cmd h s
  · exact runMove_evt h s

theorem decodeTableWord_eq_some {nbits n : Nat} {i : Instr} (h : decodeTableWord nbits n = some i) :
    decode (portOf (tableWord nbits n)) (tableWord nbits n) = .ok i := by
  unfold decodeTableWord at h
  split at h
  · split at h
    · rename_i j hj
      rw [hj, Option.some.inj h]
    · cases h
  · cases h

/-- Settles O5: the next scheduled move delivers the word, and its port decodes it. -/
theorem stepRunsDecoded : Obligations.StepRunsDecoded := by
  intro s i w rest hc
  refine ⟨fun hs hd => ?_, fun hs hd => ?_, fun nbits n hd => ?_⟩
  · rw [step_of_sched hc hs, runMove_cmd hd]
  · rw [step_of_sched hc hs, runMove_evt hd]
  · rw [step_of_sched (s := s.withFetchWord nbits n) hc rfl, runMove_moveOfWord (decodeTableWord_eq_some hd)]
    rfl

/-! ## Power-on (O55) -/

/-- What R6 and D63 ask of the sizes of the window and of the ring. -/
theorem sizes_of_admitted {c : Config} (h : c.admitted = true) :
    (1 ≤ c.nBuckets ∧ c.nBuckets ≤ 64) ∧ 1 ≤ c.ringN ∧ c.ringN ≤ 16 := by
  simp only [Config.admitted, decide_eq_true_eq] at h
  omega

theorem State.powerOn_flightInv (c : Config) : (State.powerOn c).FlightInv := by
  constructor <;> simp [State.powerOn, State.inFlightPrincipals_eq, PerSlot.all, PerSlot.get]

theorem State.powerOn_frameInv (c : Config) : (State.powerOn c).FrameInv := State.Released.frameInv ⟨rfl, .inl rfl⟩

theorem State.powerOn_timerInv (c : Config) : (State.powerOn c).TimerInv :=
  ⟨fun _ _ => by simp [State.powerOn], fun _ h => by simp [State.powerOn] at h⟩

theorem State.powerOn_dutyInv {c : Config} (h : 1 ≤ c.nBuckets) : (State.powerOn c).DutyInv :=
  ⟨by simp [State.powerOn], by simp [State.powerOn], h, fun _ => rfl⟩

theorem State.powerOn_ringInv {c : Config} (h : 1 ≤ c.ringN) : (State.powerOn c).RingInv where
  entries := by simp [State.powerOn]
  rdIdx := h
  curEntry := h
  radioLast := nofun
  size e he := by simp [List.eq_of_mem_replicate he]
  pending e he := by simp [List.eq_of_mem_replicate he]
  memory := State.powerOn_ringData_wf c

/-- Settles O55: nothing is in flight, held, stored or recorded at power-on, and each list has its configured size. -/
theorem powerOn : Obligations.PowerOn := by
  intro c hc
  obtain ⟨⟨hbuckets, -⟩, hring, -⟩ := sizes_of_admitted hc
  exact ⟨rfl, rfl, rfl, rfl, rfl, ⟨State.powerOn_flightInv c, State.powerOn_frameInv c, State.powerOn_timerInv c,
    State.powerOn_dutyInv hbuckets, State.powerOn_ringInv hring⟩, rfl, by decide⟩

end Sys2Proof.Machine
end

section
/-!
PROOFS. O46: the register map (20_memory.md R106). Each packed register is the sum of its fields, each block of the map
gives its register, and a host read returns it.
-/

namespace Sys2Proof.Machine

/-! ## Packed registers -/

/-- A register word is the number its fields add up to. -/
theorem eq_ofNat_of_toNat {w : Word} {n : Nat} (h : w.toNat = n) : w = BitVec.ofNat 32 n := by
  rw [← h, BitVec.ofNat_toNat, BitVec.setWidth_eq]

theorem State.regStatus_eq (s : State) :
    s.regStatus = BitVec.ofNat 32 (s.init.toNat + 2 * s.fatal.toNat +
      4 * (s.init && !s.fatal && decide (s.cntTotal = 0)).toNat + 8 * (!s.faults.isEmpty).toNat) := by
  apply eq_ofNat_of_toNat
  simp only [State.regStatus, toNat_append_add, BitVec.toNat_ofBool, State.faulted, State.pdVote]
  simp; omega

theorem State.regCounters_eq (s : State) :
    s.regCounters = BitVec.ofNat 32 (s.cntTotal.toNat + 2 ^ 8 * s.cntRx.toNat) := by
  apply eq_ofNat_of_toNat
  simp only [State.regCounters, toNat_append_add]
  simp; omega

theorem State.regSlots_eq (s : State) :
    s.regSlots = BitVec.ofNat 32 (s.inflight.setup.toNat + 2 * s.inflight.fsRx.toNat + 4 * s.inflight.rx.toNat +
      8 * s.inflight.fsTx.toNat + 16 * s.inflight.cca.toNat + 32 * s.inflight.tx.toNat +
      64 * s.inflight.ack.toNat + 128 * s.inflight.noop.toNat + 256 * s.inflight.tcA.toNat +
      512 * s.inflight.tcB.toNat) := by
  apply eq_ofNat_of_toNat
  simp only [State.regSlots, toNat_append_add, BitVec.toNat_ofBool]
  simp; omega

theorem State.regBackoff_eq (s : State) :
    s.regBackoff = BitVec.ofNat 32 (s.bo.rx.running.toNat + 2 * s.bo.tx.running.toNat +
      4 * s.bo.noop.running.toNat + 2 ^ 4 * s.retryEvt.rx.toNat + 2 ^ 5 * s.retryEvt.tx.toNat +
      2 ^ 6 * s.retryEvt.noop.toNat + 2 ^ 8 * s.retryArgs.rx.valid.toNat + 2 ^ 9 * s.retryArgs.tx.valid.toNat +
      2 ^ 10 * s.retryArgs.noop.valid.toNat) := by
  apply eq_ofNat_of_toNat
  simp only [State.regBackoff, toNat_append_add, BitVec.toNat_ofBool]
  simp; omega

theorem regValidHalf_eq (valid : Bool) (v : Half) :
    regValidHalf valid v = BitVec.ofNat 32 (v.toNat + 2 ^ 16 * valid.toNat) := by
  apply eq_ofNat_of_toNat
  simp only [regValidHalf, toNat_append_add, BitVec.toNat_ofBool]
  simp; omega

theorem State.regTxCtx_eq (s : State) :
    s.regTxCtx = BitVec.ofNat 32 (s.txSeq.toNat + 2 ^ 8 * s.txAckReq.toNat + 2 ^ 16 * s.ackWaitSeq.toNat +
      2 ^ 24 * s.ackWait.toNat + 2 ^ 25 * s.ackQueued.toNat) := by
  apply eq_ofNat_of_toNat
  simp only [State.regTxCtx, toNat_append_add, BitVec.toNat_ofBool]
  simp; omega

theorem regTcCtl_eq (c : TcState) : regTcCtl c = BitVec.ofNat 32 (c.armed.toNat + 2 ^ 16 * c.cb.toNat) := by
  apply eq_ofNat_of_toNat
  simp only [regTcCtl, toNat_append_add, BitVec.toNat_ofBool]
  simp; omega

theorem State.regRxFsm_eq (s : State) :
    s.regRxFsm = BitVec.ofNat 32 (s.rxState.bits.toNat + 2 ^ 8 * s.frameHandle.toNat + 2 ^ 16 * s.curEntry.toNat +
      2 ^ 24 * s.rdIdx.toNat) := by
  apply eq_ofNat_of_toNat
  simp only [State.regRxFsm, toNat_append_add]
  simp; omega

theorem append_half_eq (hi lo : Half) : (hi ++ lo : Word) = BitVec.ofNat 32 (lo.toNat + 2 ^ 16 * hi.toNat) := by
  apply eq_ofNat_of_toNat
  simp only [toNat_append_add]
  omega

theorem extLow_eq (e : DWord) : e.extractLsb' 0 32 = BitVec.ofNat 32 (e.toNat % 2 ^ 32) := by
  apply eq_ofNat_of_toNat
  simp

theorem extHigh_eq (e : DWord) : e.extractLsb' 32 32 = BitVec.ofNat 32 (e.toNat / 2 ^ 32) := by
  apply eq_ofNat_of_toNat
  have := e.isLt
  rw [BitVec.extractLsb'_toNat, Nat.shiftRight_eq_div_pow]
  omega

theorem State.regFilterMode_eq (s : State) :
    s.regFilterMode = BitVec.ofNat 32 (s.fAllow.toNat + 2 ^ 8 * s.fPromisc.toNat + 2 ^ 9 * s.fEnhAck.toNat +
      2 ^ 10 * s.fAckFP.toNat) := by
  apply eq_ofNat_of_toNat
  simp only [State.regFilterMode, toNat_append_add, BitVec.toNat_ofBool]
  simp; omega

theorem regRole_eq (panCoord beaconEn : Bool) :
    0#30 ++ BitVec.ofBool beaconEn ++ BitVec.ofBool panCoord =
      BitVec.ofNat 32 (panCoord.toNat + 2 * beaconEn.toNat) := by
  cases panCoord <;> cases beaconEn <;> decide

theorem State.regDcState_eq (s : State) :
    s.regDcState = BitVec.ofNat 32 (s.dcMode.num + 2 ^ 2 * s.dcRecorded.toNat + 2 ^ 8 * s.dcCur.toNat) := by
  apply eq_ofNat_of_toNat
  have hmode : s.dcMode.num < 4 := by cases s.dcMode <;> decide
  simp only [State.regDcState, toNat_append_add, BitVec.toNat_ofBool, BitVec.toNat_ofNat]
  simp; omega

theorem nextBits_toNat (o : Option Slot) : (nextBits o).toNat = o.elim 15 Slot.num := by
  cases o with
  | none => rfl
  | some x => cases x <;> rfl

theorem regDescCtl_eq (x : Slot) (d : Desc) (status : BitVec 2) :
    regDescCtl x d status = BitVec.ofNat 32 (x.kind.toNat + 2 ^ 4 * status.toNat + 2 ^ 6 * d.trigger.bits.toNat +
      2 ^ 8 * d.next.elim 15 Slot.num + 2 ^ 12 * d.cond.bits.toNat) := by
  apply eq_ofNat_of_toNat
  simp only [regDescCtl, toNat_append_add, nextBits_toNat]
  simp; omega

theorem regRingCtl_eq (e : RingEntry) :
    regRingCtl e = BitVec.ofNat 32 (e.status.bits.toNat + 2 ^ 16 * e.rxCount.toNat) := by
  apply eq_ofNat_of_toNat
  simp only [regRingCtl, toNat_append_add]
  simp; omega

/-! ## The blocks of the map -/

theorem slotOfNum_num (x : Slot) : slotOfNum x.num = some x := by cases x <;> rfl

theorem slotNum_le (x : Slot) : x.num ≤ 9 := by cases x <;> decide

/-- A fixed register stands below 0x080, at a multiple of 4. -/
theorem State.regFixed_offset {s : State} {off : Nat} {w : Word} (h : s.regFixed off = some w) :
    off % 4 = 0 ∧ off < 0x080 := by
  unfold State.regFixed at h
  split at h
  case h_33 => cases h
  all_goals decide

theorem State.regValue_of_regFixed {s : State} {off : Nat} {w : Word} (h : s.regFixed off = some w)
    (status : BitVec 2) : s.regValue off status = some w := by
  have hoff := State.regFixed_offset h
  rw [State.regValue, if_neg (not_not.mpr hoff.1), if_pos hoff.2, h]

theorem State.regValue_diag (s : State) (r : Fin 20) (status : BitVec 2) :
    s.regValue (0x080 + 4 * r.val) status = some (BitVec.ofNat 32 (s.diag.get r).toNat) := by
  have hr := r.isLt
  have hindex : (0x080 + 4 * r.val - 0x080) / 4 = r.val := by omega
  rw [State.regValue, if_neg (by omega), if_neg (by omega), State.regRepeated, if_pos (by omega), hindex,
    List.getD_eq_getElem _ _ (by simp)]
  congr 1
  apply eq_ofNat_of_toNat
  simp [Vector.get]
  omega

theorem State.regValue_bucket {s : State} {i : Nat} (hi : i < s.cfg.nBuckets) (status : BitVec 2) :
    s.regValue (0x100 + 4 * i) status = some (s.bucket i) := by
  have hindex : (0x100 + 4 * i - 0x100) / 4 = i := by omega
  rw [State.regValue, if_neg (by omega), if_neg (by omega), State.regRepeated, if_neg (by omega), if_pos (by omega),
    hindex]

/-- The four registers of a descriptor (R186). -/
def State.descReg (s : State) (x : Slot) (status : BitVec 2) : Nat → Word
  | 0 => regDescCtl x (s.desc.get x) status
  | 1 => (s.desc.get x).startTime
  | 2 => (s.desc.get x).param0
  | _ => (s.desc.get x).param1

theorem State.regValue_desc {s : State} (hb : s.cfg.nBuckets ≤ 64) (x : Slot) {j : Nat} (hj : j < 4)
    (status : BitVec 2) : s.regValue (0x200 + 4 * j + 0x10 * x.num) status = some (s.descReg x status j) := by
  have hx := slotNum_le x
  have hslot : (0x200 + 4 * j + 0x10 * x.num - 0x200) / 16 = x.num := by omega
  have hword : (0x200 + 4 * j + 0x10 * x.num) % 16 / 4 = j := by omega
  rw [State.regValue, if_neg (by omega), if_neg (by omega), State.regRepeated, if_neg (by omega), if_neg (by omega),
    if_pos (by omega), hslot, hword, slotOfNum_num]
  interval_cases j <;> rfl

theorem State.regValue_ring {s : State} (hb : s.cfg.nBuckets ≤ 64) {k : BitVec 4} (hk : k.toNat < s.cfg.ringN)
    (status : BitVec 2) : s.regValue (0x300 + 4 * k.toNat) status = some (regRingCtl (s.entry k)) := by
  have hindex : (0x300 + 4 * k.toNat - 0x300) / 4 = k.toNat := by omega
  rw [State.regValue, if_neg (by omega), if_neg (by omega), State.regRepeated, if_neg (by omega), if_neg (by omega),
    if_neg (by omega), if_pos (by omega), hindex, BitVec.ofNat_toNat, BitVec.setWidth_eq]

/-! ## A host read -/

/-- An admitted host read of a listed register reads it (20_memory.md R103, R105). -/
theorem step_read {s : State} {off : BitVec 12} {rest : List Move} (hc : s.cfg.admitted = true)
    (hs : s.reads off rest) (hl : s.regListed off.toNat = true) :
    step s = .next (State.readReg { s with sched := rest } off.toNat) := by
  rw [step_of_sched hc hs, runMove, State.hostRead]
  exact if_pos ⟨rfl, hl⟩

/-- A host read at `off` has a step, returns `w` and changes nothing of the machine (R105). -/
def State.Shows (s : State) (off : Nat) (w : Word) : Prop :=
  s.regListed off = true ∧ s.readReg off = { s with busData := w }

theorem step_of_shows {s : State} {off : BitVec 12} {rest : List Move} {w : Word} (hc : s.cfg.admitted = true)
    (hs : s.reads off rest) (h : State.Shows { s with sched := rest } off.toNat w) :
    step s = .next { s with sched := rest, busData := w } := by
  rw [step_read hc hs h.1, h.2]

/-- A register that is specified and holds no status bits shows its value. -/
theorem State.shows_plain {s : State} {off : Nat} {w : Word} (hspec : s.readUnspecified off = false)
    (hplain : descCtlSlot off = none) (hw : ∀ status, s.regValue off status = some w) : s.Shows off w := by
  refine ⟨Option.isSome_of_eq_some (hw 0), ?_⟩
  rw [State.readReg_eq, if_neg (by simp [hspec])]
  simp only [State.readStatusBits, hplain, hw]
  rfl

/-- STATUS is specified at every time (R106). -/
theorem State.shows_status (s : State) : s.Shows 0x010 s.regStatus :=
  State.shows_plain (by simp [State.readUnspecified]) rfl fun _ => rfl

section
variable {s : State} (hr : s.ready)
include hr

theorem State.readUnspecified_of_ready (off : Nat) : s.readUnspecified off = false := by
  simp [State.readUnspecified, hr.1, hr.2]

theorem State.shows_fixed {off : Nat} {w : Word} (h : s.regFixed off = some w) : s.Shows off w := by
  have hoff := State.regFixed_offset h
  exact State.shows_plain (State.readUnspecified_of_ready hr _) (if_neg (by omega)) (State.regValue_of_regFixed h)

theorem State.shows_diag (r : Fin 20) : s.Shows (0x080 + 4 * r.val) (BitVec.ofNat 32 (s.diag.get r).toNat) :=
  State.shows_plain (State.readUnspecified_of_ready hr _) (if_neg (by omega)) (s.regValue_diag r)

variable (hb : s.cfg.nBuckets ≤ 64)
include hb

theorem State.shows_bucket {i : Nat} (hi : i < s.cfg.nBuckets) :
    s.Shows (0x100 + 4 * i) (BitVec.ofNat 32 (s.bucket i).toNat) :=
  State.shows_plain (State.readUnspecified_of_ready hr _) (if_neg (by omega)) fun status => by
    rw [State.regValue_bucket hi, ← eq_ofNat_of_toNat rfl]

theorem State.shows_ring {k : BitVec 4} (hk : k.toNat < s.cfg.ringN) :
    s.Shows (0x300 + 4 * k.toNat) (regRingCtl (s.entry k)) := by
  have hplain : descCtlSlot (0x300 + 4 * k.toNat) = none := by
    have habove : (0x300 + 4 * k.toNat - 0x200) / 16 = (6 + k.toNat / 4) + 10 := by omega
    rw [descCtlSlot, habove]
    split <;> rfl
  exact State.shows_plain (State.readUnspecified_of_ready hr _) hplain (State.regValue_ring hb hk)

/-- The descriptor's registers but DESC_CTL. -/
theorem State.shows_desc (x : Slot) {j : Nat} (hpos : 0 < j) (hj : j < 4) :
    s.Shows (0x200 + 4 * j + 0x10 * x.num) (BitVec.ofNat 32 (s.descReg x 0 j).toNat) := by
  refine State.shows_plain (State.readUnspecified_of_ready hr _) (if_neg (by omega)) fun status => ?_
  rw [State.regValue_desc hb x hj, ← eq_ofNat_of_toNat rfl]
  interval_cases j <;> rfl

/-- DESC_CTL shows the stored status, or a drawn one while the slot is in flight (10_state.md R42). -/
theorem State.readReg_descCtl (x : Slot) :
    s.regListed (0x200 + 0x10 * x.num) = true ∧ s.readReg (0x200 + 0x10 * x.num) =
      if s.inflight.get x then { s.drawStatusBits.2 with busData := regDescCtl x (s.desc.get x) s.drawStatusBits.1 }
      else { s with busData := regDescCtl x (s.desc.get x) (s.desc.get x).status.bits } := by
  have hx := slotNum_le x
  have hslot : descCtlSlot (0x200 + 0x10 * x.num) = some x := by
    rw [descCtlSlot, if_pos (by omega), show (0x200 + 0x10 * x.num - 0x200) / 16 = x.num by omega, slotOfNum_num]
  have hw (status : BitVec 2) : s.regValue (0x200 + 0x10 * x.num) status = some (s.descReg x status 0) :=
    State.regValue_desc hb x (j := 0) (by decide) status
  refine ⟨Option.isSome_of_eq_some (hw 0), ?_⟩
  rw [State.readReg_eq, if_neg (by simp [State.readUnspecified_of_ready hr])]
  simp only [State.readStatusBits, hslot, hw]
  split <;> rfl

end

/-- The draw of a status does not depend on the schedule. -/
theorem State.drawStatusBits_sched (s : State) (rest : List Move) :
    State.drawStatusBits { s with sched := rest } =
      (s.drawStatusBits.1, { s with sched := rest, draws := s.drawStatusBits.2.draws }) := by
  unfold State.drawStatusBits
  cases s.draws.statusBits <;> rfl

/-- The draw of an unspecified value does not depend on the schedule. -/
theorem State.drawUnspecified_sched (s : State) (rest : List Move) :
    State.drawUnspecified { s with sched := rest } =
      (s.drawUnspecified.1, { s with sched := rest, draws := s.drawUnspecified.2.draws }) := by
  unfold State.drawUnspecified
  cases s.draws.unspecified <;> rfl

/-- Settles O46: every register of the map is the sum of its fields, and a read shows it. -/
theorem registerReads : Obligations.RegisterReads := by
  intro s off rest hc hs u gives b
  obtain ⟨⟨-, hb⟩, -⟩ := sizes_of_admitted hc
  have shown {o v : Nat} (hoff : off.toNat = o) (h : u.Shows o (BitVec.ofNat 32 v)) : gives v :=
    step_of_shows hc hs (hoff ▸ h)
  refine ⟨fun hoff => ?_, fun hinit _ hoff hl => ?_, fun hr => ⟨?_, ?_, ?_, ?_, ?_⟩⟩
  · exact shown (congrArg BitVec.toNat hoff) (u.regStatus_eq ▸ u.shows_status)
  · have hspec : u.readUnspecified off.toNat = true := by
      have hne : off.toNat ≠ 0x010 := fun e => hoff (BitVec.eq_of_toNat_eq e)
      simp [State.readUnspecified, u, hinit, hne]
    rw [step_read hc hs hl, State.readReg_eq, if_pos hspec, State.drawUnspecified_sched]
  · refine fun v hv => shown rfl (State.shows_fixed (s := u) hr ?_)
    refine (?_ : ∀ p ∈ _, s.regFixed p.1 = some (BitVec.ofNat 32 p.2)) _ hv
    simp [State.regFixed, State.regCounters_eq, State.regSlots_eq, State.regBackoff_eq, regValidHalf_eq,
      State.regTxCtx_eq, regTcCtl_eq, State.regRxFsm_eq, append_half_eq, extLow_eq, extHigh_eq, State.regFilterMode_eq,
      regRole_eq, State.regDcState_eq, b]
  · exact fun r hoff => shown hoff (u.shows_diag hr r)
  · exact fun i hi hoff => shown hoff (u.shows_bucket hr hb hi)
  · intro x d ctl
    have hctl (status : BitVec 2) : regDescCtl x d status = BitVec.ofNat 32 (ctl status.toNat) := by
      rw [regDescCtl_eq]
      cases h : d.next <;> simp only [ctl, h] <;> rfl
    obtain ⟨hlisted, hread⟩ := State.readReg_descCtl (s := u) hr hb x
    refine ⟨fun hoff hfree => ?_, fun hoff hin => ?_, fun hoff => ?_, fun hoff => ?_, fun hoff => ?_⟩
    · rw [if_neg (by rw [show u.inflight.get x = false from hfree]; decide)] at hread
      exact shown hoff (hctl _ ▸ ⟨hlisted, hread⟩)
    · rw [step_read hc hs (hoff ▸ hlisted), hoff, hread, if_pos hin, State.drawStatusBits_sched, ← hctl]
    · exact shown hoff (u.shows_desc hr hb x (j := 1) (by decide) (by decide))
    · exact shown hoff (u.shows_desc hr hb x (j := 2) (by decide) (by decide))
    · exact shown hoff (u.shows_desc hr hb x (j := 3) (by decide) (by decide))
  · exact fun k hk hoff => shown hoff (regRingCtl_eq (u.entry k) ▸ u.shows_ring hr hb hk)

end Sys2Proof.Machine
end

section
/-!
PROOFS. What the receive machine may do to the ring and to the descriptor arena, said once: it flushes entries, begins a
frame at rdIdx, and submits an acknowledgment while ACK is free (41_rx_frame_fsm.md R302, R305, R321, R353).
-/

namespace Sys2Proof.Machine

/-- The ring (20_memory.md R110 to R116), the descriptors and which of them are in flight. -/
@[simp] def State.memView (s : State) :=
  (s.cfg, s.curEntry, s.ring, s.ringData, s.radioLast, s.rdIdx, s.desc, s.inflight)

/-- `P` reads the fields of `memView` alone, and what the receive machine does to them keeps it. -/
structure KeptByReceive (P : State → Prop) : Prop where
  congr : ∀ {s t : State}, P s → t.memView = s.memView → P t
  flush : ∀ (s : State) k, P s → P (s.flushEntry k)
  begin : ∀ s : State, P s → P { s with curEntry := s.rdIdx }
  buildAck : ∀ (s : State) p q w, P s → s.inflight.ack = false → P (s.build .ack .absTime none .never p q w)
  acceptAck : ∀ s : State, P s → P (s.onAccepted .ack [.ack])

theorem State.discard_memView (s : State) (r : DiagReason) :
    (s.discard r).memView = (s.flushEntry s.curEntry).memView := by
  simp [State.discard_rdIdx, State.flushEntry_rdIdx]

section
variable {P : State → Prop} (k : KeptByReceive P)
include k

/-! ## The ends of a frame -/

theorem KeptByReceive.discard {s : State} (r : DiagReason) (hs : P s) : P (s.discard r) :=
  k.congr (k.flush s _ hs) (s.discard_memView r)

theorem KeptByReceive.discardToIdle {s : State} (r : DiagReason) (hs : P s) : P (s.discardToIdle r) :=
  k.congr (k.discard r hs) rfl

theorem KeptByReceive.parserStop {s : State} (hs : P s) : P s.parserStop := by
  unfold State.parserStop
  split_ifs
  · exact k.discardToIdle _ hs
  · exact k.congr hs (by simp)

theorem KeptByReceive.haltedToIdle {s : State} (hs : P s) : P s.haltedToIdle := k.congr hs (by simp)

theorem KeptByReceive.unexpectedEnd {s : State} (hs : P s) : P s.unexpectedEnd := by
  have hcounted : P (s.count .unexpectedEvent) := k.congr hs (by simp)
  unfold State.unexpectedEnd
  dsimp only
  split_ifs
  · exact k.flush _ _ hcounted
  · exact hcounted

theorem KeptByReceive.finishFrame {s : State} (hs : P s) : P s.finishFrame :=
  k.congr (k.flush s.releasePf s.curEntry (k.congr hs rfl)) rfl

/-! ## Acknowledgments -/

theorem KeptByReceive.submitAck {s : State} (p q : Word) (hs : P s) (hfree : s.inflight.ack = false) :
    P (s.submitAck p q).2 := by
  have hbuilt := k.buildAck s.drawAckStart.2 p q s.drawAckStart.1 (k.congr hs (by simp)) (by simpa using hfree)
  exact k.congr hbuilt (by simp [State.submitAck_eq])

theorem KeptByReceive.submitImmAck {s : State} (hs : P s) : P s.submitImmAck := by
  rw [State.submitImmAck_eq]
  dsimp only
  split_ifs with hack
  · exact k.congr hs (by simp)
  · exact k.congr (k.acceptAck _ (k.submitAck _ _ hs (by simpa using hack))) rfl
  · exact k.congr (k.submitAck _ _ hs (by simpa using hack)) rfl

theorem KeptByReceive.submitEnhAck {s : State} (hs : P s) : P s.submitEnhAck := by
  have hdrawn : P s.drawEnhAckIEs.2 := k.congr hs (by simp)
  rw [State.submitEnhAck_eq]
  dsimp only
  split_ifs with hack
  · exact k.congr hs (by simp)
  · exact k.congr (k.acceptAck _ (k.submitAck _ _ hdrawn (by simpa using hack))) rfl
  · exact k.congr (k.submitAck _ _ hdrawn (by simpa using hack)) rfl

/-! ## The stages -/

theorem KeptByReceive.hdrStep {s : State} (hs : P s) : P s.hdrStep := by
  unfold State.hdrStep
  dsimp only
  split_ifs
  · exact k.discard _ hs
  · exact k.discard _ hs
  · exact k.discard _ hs
  · exact k.discard _ hs
  · split
    · exact k.discard _ hs
    · have hdrawn : P s.drawAllocOk.2 := k.congr hs (by simp)
      obtain h | h := s.hdrAllocate_cases (s.ringByte s.curEntry 0) (s.ringByte s.curEntry 1) s.curFcf
      · exact h ▸ k.discard _ hdrawn
      · exact h ▸ k.congr hdrawn rfl

theorem KeptByReceive.addrPass {s : State} (hs : P s) : P s.addrPass := by
  have hacked : P (if s.ackNeeded then s.submitImmAck else s) := by
    split_ifs
    · exact k.submitImmAck hs
    · exact hs
  exact k.congr hacked rfl

theorem KeptByReceive.addrStep {s : State} (hs : P s) : P s.addrStep := by
  have hread : P { s with pf := s.addressFrame } := k.congr hs rfl
  obtain ⟨u, r, rfl | rfl, h⟩ | h := s.addrStep_cases
  · exact h ▸ k.discard r hs
  · exact h ▸ k.discard r hread
  · exact h ▸ k.addrPass hread

theorem KeptByReceive.secHdrStep {s : State} (hs : P s) : P s.secHdrStep := by
  obtain ⟨r, h⟩ | ⟨-, h⟩ := s.secHdrStep_cases
  · exact h ▸ k.discard r hs
  · exact h ▸ k.congr hs rfl

theorem KeptByReceive.payloadStep {s : State} (hs : P s) : P s.payloadStep := by
  obtain h | h := s.payloadStep_cases
  · exact h ▸ k.discard _ hs
  · exact h ▸ k.congr hs rfl

theorem KeptByReceive.stageStep {s : State} (hs : P s) : P s.stageStep := by
  unfold State.stageStep
  split
  · exact k.hdrStep hs
  · exact k.addrStep hs
  · exact k.secHdrStep hs
  · exact k.payloadStep hs
  · exact hs
  · exact hs
  · exact hs

/-! ## The dispatch -/

theorem KeptByReceive.ackConsume {s : State} (hs : P s) : P s.ackConsume := by
  unfold State.ackConsume
  split_ifs
  · exact k.finishFrame (k.congr hs (by simp))
  · exact k.discard _ hs

theorem KeptByReceive.ackAndDeliver {s : State} (hs : P s) : P s.ackAndDeliver := by
  have hacked : P (if s.enhAckRequired then s.submitEnhAck else s) := by
    split_ifs
    · exact k.submitEnhAck hs
    · exact hs
  exact k.finishFrame (k.congr hacked rfl)

theorem KeptByReceive.dispatchFrame {s : State} (hs : P s) : P s.dispatchFrame := by
  unfold State.dispatchFrame
  split_ifs
  · split
    · exact k.ackAndDeliver (k.congr hs rfl)
    · exact k.discard _ hs
    · exact k.discard _ hs
  · exact k.ackAndDeliver hs

theorem KeptByReceive.trailerAndDispatch {s : State} (hs : P s) : P s.trailerAndDispatch := by
  have hread : P { s with pf := s.trailerFrame } := k.congr hs rfl
  unfold State.trailerAndDispatch
  dsimp only
  split_ifs
  · exact k.discard _ hs
  · exact k.ackConsume hread
  · exact k.dispatchFrame hread

theorem KeptByReceive.endFrame {s : State} (hs : P s) : P s.endFrame := by
  have hdue : P s.runDueStages := k.stageStep (k.stageStep (k.stageStep (k.stageStep hs)))
  unfold State.endFrame
  dsimp only
  split_ifs
  · exact k.haltedToIdle (k.trailerAndDispatch hdue)
  · exact k.haltedToIdle hdue

/-! ## The events -/

theorem KeptByReceive.preambleEvent {s : State} (hs : P s) : P s.preambleEvent := by
  unfold State.preambleEvent
  dsimp only
  split_ifs
  · exact k.congr (k.begin ((s.discard .aborted).count .unexpectedEvent) (k.congr (k.discard .aborted hs) (by simp))) rfl
  · exact k.congr (k.begin s hs) rfl
  · exact k.congr hs (by simp)

theorem KeptByReceive.frameOkEvent {s : State} (hs : P s) : P s.frameOkEvent := by
  unfold State.frameOkEvent
  split
  · exact k.unexpectedEnd hs
  · exact k.haltedToIdle hs
  all_goals exact k.endFrame hs

theorem KeptByReceive.badCrcEvent {s : State} (hs : P s) : P s.badCrcEvent := by
  unfold State.badCrcEvent
  split_ifs
  · exact k.discardToIdle _ hs
  · exact k.unexpectedEnd hs
  · exact k.haltedToIdle hs

theorem KeptByReceive.bufFullEvent {s : State} (hs : P s) : P s.bufFullEvent := by
  unfold State.bufFullEvent
  split_ifs
  · exact k.discardToIdle _ hs
  · exact k.congr hs (by simp)
  · exact k.haltedToIdle hs

end

end Sys2Proof.Machine
end

section
/-!
PROOFS. O54 and O49: the shape of the ring, and its bytes (20_memory.md R110 to R116). A property of the ring is kept by
every step but a ring write once flushing an entry, beginning a frame and INIT keep it.
-/

namespace Sys2Proof.Machine

/-! ## The rules that touch the ring -/

/-- The fields of the receive ring (20_memory.md R110 to R116). -/
@[simp] def State.ringView (s : State) := (s.cfg, s.curEntry, s.ring, s.ringData, s.radioLast, s.rdIdx)

theorem State.ringView_eq {s t : State} :
    t.ringView = s.ringView ↔ t.cfg = s.cfg ∧ t.curEntry = s.curEntry ∧ t.ring = s.ring ∧ t.ringData = s.ringData ∧
      t.radioLast = s.radioLast ∧ t.rdIdx = s.rdIdx := by simp

/-- `P` reads the ring alone, and flushing an entry, beginning a frame and INIT keep it. -/
structure KeptByRing (P : State → Prop) : Prop where
  congr : ∀ {s t : State}, P s → t.ringView = s.ringView → P t
  flush : ∀ (s : State) k, P s → P (s.flushEntry k)
  begin : ∀ s : State, P s → P { s with curEntry := s.rdIdx }
  initialise : ∀ s : State, P s → P s.initialise

/-- A retry submits, and no submission touches the ring (43_backoff_timers.md R435, R436). -/
theorem State.retryStep_ringView (s : State) (c : OpClass) : (s.retryStep c).ringView = s.ringView := by
  have outcome (u : State) (out : ResultCode) : (u.retryOutcome c out).ringView = u.ringView := by
    cases out <;> simp [State.retryOutcome, State.dropRetry]
  have submit (u : State) (a : RetryArgs) : (u.retrySubmit c a).2.ringView = u.ringView := by
    cases c <;> simp only [State.retrySubmit] <;> split_ifs <;> simp
  rw [State.retryStep_eq]
  dsimp only
  split_ifs
  · rw [outcome, submit]
    rfl
  · rfl

section
variable {P : State → Prop} (k : KeptByRing P)
include k

theorem KeptByRing.receive : KeptByReceive P where
  congr hs e := k.congr hs (by simp_all)
  flush := k.flush
  begin := k.begin
  buildAck _ _ _ _ hs _ := k.congr hs (by simp)
  acceptAck _ hs := k.congr hs (by simp)

theorem KeptByRing.guardCmd {s : State} {body : State → State} (hs : P s) (run : P (body s)) :
    P (s.guardCmd body) :=
  State.guardCmd_keeps (k.congr hs (by simp)) (k.congr hs (by simp)) fun _ => run

/-- A guarded command whose body leaves the ring alone. -/
theorem KeptByRing.quietCmd {s : State} {body : State → State} (hs : P s)
    (run : (body s).ringView = s.ringView) : P (s.guardCmd body) :=
  k.guardCmd hs (k.congr hs run)

/-- INIT (40_scheduler.md R230): turned away, or it resets the machine, or the ring allocation fails. -/
theorem KeptByRing.cmdInit {s : State} (hs : P s) : P (cmdInit s) := by
  rw [cmdInit_eq]
  split_ifs
  · exact k.congr hs (by simp)
  · exact k.congr hs (by simp)
  · exact k.initialise s hs
  · exact k.initialise _ (k.congr hs (by simp))
  · exact k.congr hs (by simp)

theorem KeptByRing.cmdStopAll (graceful : Bool) {s : State} (hs : P s) : P (cmdStopAll graceful s) := by
  have hsent : P (s.unlinkCca.emit (.flushAll graceful)) := k.congr hs (by simp)
  exact k.guardCmd hs (k.congr (k.receive.parserStop hsent) (by simp))

theorem KeptByRing.cmdSubmitRx (ch : Half) {s : State} (hs : P s) : P (cmdSubmitRx ch s) :=
  k.quietCmd hs (by split_ifs <;> simp [submitResult])

theorem KeptByRing.cmdSubmitTx (ch : Half) (ackReq cca : Bool) {s : State} (hs : P s) :
    P (cmdSubmitTx ch ackReq cca s) :=
  k.quietCmd hs (by split_ifs <;> simp [submitResult])

theorem KeptByRing.cmdSubmitNoop {s : State} (hs : P s) : P (cmdSubmitNoop s) :=
  k.quietCmd hs (by split_ifs <;> simp [submitResult])

/-- The end of a principal: that of RX ends the frame in progress, and no other touches the ring (R260, R362). -/
theorem KeptByRing.terminal {s : State} (p : Slot) (kind : EndKind) (hs : P s) : P (s.terminal p kind) := by
  have hretired : P ((s.memberStatuses (s.inflightChain p) kind).retire p (s.inflightChain p)) :=
    k.congr hs (by simp)
  unfold State.terminal
  dsimp only
  split_ifs
  · unfold State.principalEnd
    split
    · exact k.receive.parserStop hretired
    · exact k.congr hretired (by simp)
    · exact k.congr hretired (by simp)
    · exact hretired
  · exact k.congr hs (by simp)

/-- The rule of an event bit (30_encoding.md R160). -/
theorem KeptByRing.bitRule {s : State} (x : Slot) (b : Nat) (hs : P s) : P (s.bitRule x b) := by
  unfold State.bitRule
  split
  · exact k.receive.preambleEvent hs
  · exact k.receive.frameOkEvent hs
  · exact k.receive.badCrcEvent hs
  · exact k.receive.bufFullEvent hs
  · exact k.terminal x .done hs
  · exact k.terminal x .stopped hs
  · exact k.terminal x .preempted hs
  · exact k.congr hs (by simp)

theorem KeptByRing.exec {i : Instr} {s t : State} (hs : P s) (h : exec i s = .next t) : P t :=
  exec_keeps (P := P)
    (arg0 := fun _ _ hu => k.congr hu (by simp))
    (arg1 := fun _ _ hu => k.congr hu (by simp))
    (init := fun _ hu => k.cmdInit hu)
    (submitRx := fun ch _ hu => k.cmdSubmitRx ch hu)
    (submitTx := fun ch a c _ hu => k.cmdSubmitTx ch a c hu)
    (submitNoop := fun _ hu => k.cmdSubmitNoop hu)
    (stopAll := fun g _ hu => k.cmdStopAll g hu)
    (power := fun _ _ hu => k.quietCmd hu (by split <;> simp))
    (setupTc := fun _ _ _ hu => by rw [cmdSetupTc_eq]; exact k.quietCmd hu (by simp))
    (dcRecord := fun _ hu => k.quietCmd hu (by split <;> simp))
    (dcCheck := fun _ hu => k.quietCmd hu (by simp))
    (dcAdvance := fun _ hu => k.quietCmd hu (by simp))
    (setRole := fun _ _ _ hu => k.quietCmd hu (by simp))
    (backoff := fun _ _ hu => k.quietCmd hu (by split <;> simp))
    (setPan := fun _ _ hu => k.quietCmd hu (by simp))
    (setShort := fun _ _ hu => k.quietCmd hu (by simp))
    (setExt := fun _ hu => k.quietCmd hu (by simp))
    (filter := fun _ _ _ _ _ hu => k.quietCmd hu (by simp))
    (event := fun x b _ hu => State.deliverEvent_keeps x b hu (k.congr hu (by simp))
      (fun _ hv => k.congr hv (by simp)) fun _ y c _ hv _ => k.bitRule y c hv) hs h

theorem KeptByRing.agentStep {s : State} (a : Agent) (hs : P s) : P (s.agentStep a) := by
  cases a with
  | parser => exact k.receive.stageStep hs
  | boTimer c => exact k.congr hs (by simp [State.agentStep])
  | retry c => exact k.congr hs (s.retryStep_ringView c)
  | ackTimer => exact k.congr hs (by simp [State.agentStep])

/-- What the rules keep every step keeps, if the radio's ring write in this state keeps it too (R113). -/
theorem KeptByRing.step {s t : State} (hs : P s)
    (write : ∀ (u : State) j bytes done, u.ringView = s.ringView → u.ringWriteOk j bytes = true →
      P (u.ringWrite j bytes done))
    (h : step s = .next t) : P t := by
  obtain ⟨-, ⟨-, rfl⟩ | ⟨m, rest, -, hmove⟩⟩ := step_cases h
  · obtain hwait | ⟨a, -, hagent⟩ := s.idleStep_cases
    · rwa [hwait]
    · rw [hagent]
      exact k.agentStep a (k.congr hs rfl)
  · have hu : P { s with sched := rest } := k.congr hs rfl
    cases hmove with
    | exec i he => exact k.exec hu he
    | illegal w => exact k.congr hu (by unfold State.illegalCmd; split <;> simp)
    | arg0 v => exact k.congr hu rfl
    | arg1 v => exact k.congr hu rfl
    | ignored => exact hu
    | read off => exact State.readReg_keeps off hu (fun _ _ hv => k.congr hv rfl) fun _ _ hv => k.congr hv rfl
    | badEvent => exact State.badEventWord_keeps hu (k.congr hu (by simp)) (k.congr hu (by simp))
    | ring j bytes done hok => exact write _ j bytes done rfl hok
    | agent a ha => exact k.agentStep a hu

end

/-! ## What the rules leave in the ring -/

/-- The entries after one is written: an entry past the end of the ring is not there to write. -/
theorem getD_ring_set (ring : List RingEntry) (j k : BitVec 4) (e d : RingEntry) :
    (ring.set j.toNat e).getD k.toNat d =
      if k = j ∧ j.toNat < ring.length then e else ring.getD k.toNat d := by
  by_cases hkj : k = j
  · subst hkj
    by_cases hlen : k.toNat < ring.length <;> simp [hlen]
  · have hne : j.toNat ≠ k.toNat := fun e => hkj (BitVec.eq_of_toNat_eq e.symm)
    simp [hkj, hne]

/-- A flushed entry is empty, and the others stay (41_rx_frame_fsm.md R302). -/
theorem State.entry_flushEntry (s : State) (j k : BitVec 4) :
    (s.flushEntry j).entry k = if k = j then ⟨.pending, 0⟩ else s.entry k := by
  rw [State.entry, State.flushEntry_ring, getD_ring_set]
  by_cases hkj : k = j
  · by_cases hlen : j.toNat < s.ring.length
    · rw [if_pos ⟨hkj, hlen⟩, if_pos hkj]
    · rw [if_neg (fun h => hlen h.2), if_pos hkj, hkj, List.getD_eq_default _ _ (by omega)]
  · rw [if_neg (fun h => hkj h.1), if_neg hkj, State.entry]

/-- INIT empties the ring and leaves its bytes (70_reset_and_hazards.md R541; log entries 16 and 17). -/
theorem State.initialise_ringView (s : State) :
    s.initialise.ringView = (s.cfg, 0, List.replicate s.cfg.ringN ⟨.pending, 0⟩, s.ringData, s.radioLast, 0) := by
  unfold State.initialise State.emitDisable
  dsimp only
  split_ifs <;> rfl

/-- A ring write sets the status and byte count of its entry (20_memory.md R113). -/
@[simp] theorem State.ringWrite_ring (s : State) (j : BitVec 4) (bytes : List Byte) (done : Bool) :
    (s.ringWrite j bytes done).ring =
      s.ring.set j.toNat ⟨if done then .full else .active, BitVec.ofNat 12 (s.rxCount j + bytes.length)⟩ := rfl

@[simp] theorem State.ringWrite_cfg (s : State) (j : BitVec 4) (bytes : List Byte) (done : Bool) :
    (s.ringWrite j bytes done).cfg = s.cfg := rfl

/-! ## The invariant (O54) -/

theorem State.RingInv.congr {s t : State} (h : s.RingInv) (e : t.ringView = s.ringView) : t.RingInv := by
  obtain ⟨ecfg, ecur, ering, edata, elast, eidx⟩ := State.ringView_eq.mp e
  exact {
    entries := by rw [ering, ecfg]; exact h.entries
    rdIdx := by rw [eidx, ecfg]; exact h.rdIdx
    curEntry := by rw [ecur, ecfg]; exact h.curEntry
    radioLast := by rw [elast, ecfg]; exact h.radioLast
    size := by rw [ering, ecfg]; exact h.size
    pending := by rw [ering]; exact h.pending
    memory := by rw [edata]; exact h.memory }

theorem State.RingInv.flushEntry {s : State} (h : s.RingInv) (k : BitVec 4) : (s.flushEntry k).RingInv where
  entries := by simpa using h.entries
  rdIdx := by
    rw [State.flushEntry_rdIdx]
    split_ifs
    · have hnext : (k.toNat + 1) % s.cfg.ringN < s.cfg.ringN := Nat.mod_lt _ (Nat.zero_lt_of_lt h.rdIdx)
      simpa using lt_of_le_of_lt (Nat.mod_le _ _) hnext
    · simpa using h.rdIdx
  curEntry := by simpa using h.curEntry
  radioLast := by simpa using h.radioLast
  size e he := by
    rw [State.flushEntry_ring] at he
    obtain he | rfl := List.mem_or_eq_of_mem_set he
    · simpa using h.size e he
    · simp
  pending e he := by
    rw [State.flushEntry_ring] at he
    obtain he | rfl := List.mem_or_eq_of_mem_set he
    · exact h.pending e he
    · simp
  memory := by simpa using h.memory

theorem State.RingInv.initialise {s : State} (h : s.RingInv) : s.initialise.RingInv := by
  have hring : 0 < s.cfg.ringN := Nat.zero_lt_of_lt h.rdIdx
  refine State.RingInv.congr (s := { s with
    curEntry := 0, rdIdx := 0, ring := List.replicate s.cfg.ringN ⟨.pending, 0⟩ }) ?_ s.initialise_ringView
  exact {
    entries := List.length_replicate
    rdIdx := hring
    curEntry := hring
    radioLast := h.radioLast
    size := fun e he => by simp [List.eq_of_mem_replicate he]
    pending := fun e he => by simp [List.eq_of_mem_replicate he]
    memory := h.memory }

/-- A ring write of at least one byte that fits fills or extends an entry of the ring (R113). -/
theorem State.RingInv.ringWrite {s : State} (h : s.RingInv) {j : BitVec 4} {bytes : List Byte}
    (hok : s.ringWriteOk j bytes = true) (done : Bool) : (s.ringWrite j bytes done).RingInv := by
  obtain ⟨hj, -, -, hsome, hsize, hlt, -⟩ := (s.ringWriteOk_iff j bytes).mp hok
  have hcount : (BitVec.ofNat 12 (s.rxCount j + bytes.length)).toNat = s.rxCount j + bytes.length := by
    rw [BitVec.toNat_ofNat]
    exact Nat.mod_eq_of_lt hlt
  exact {
    entries := by simpa using h.entries
    rdIdx := h.rdIdx
    curEntry := h.curEntry
    radioLast := fun l hl => Option.some.inj hl ▸ hj
    size := fun e he => by
      obtain he | rfl := List.mem_or_eq_of_mem_set he
      · exact h.size e he
      · exact hcount.trans_le hsize
    pending := fun e he => by
      obtain he | rfl := List.mem_or_eq_of_mem_set he
      · exact h.pending e he
      · have hne : BitVec.ofNat 12 (s.rxCount j + bytes.length) ≠ 0 := fun hz => by
          rw [hz] at hcount
          simp at hcount
          omega
        exact iff_of_false (by cases done <;> simp) hne
    memory := Memory.wf_writeList bytes _ h.memory }

theorem ringInv_keptByRing : KeptByRing State.RingInv where
  congr h e := h.congr e
  flush _ k h := h.flushEntry k
  begin _ h := ⟨h.entries, h.rdIdx, h.rdIdx, h.radioLast, h.size, h.pending, h.memory⟩
  initialise _ h := h.initialise

/-- Settles O54: a flush, the start of a frame, INIT and a ring write keep the ring's shape, and nothing else touches
it. -/
theorem ringInvKept : Obligations.RingInvKept := fun _ _ h hstep =>
  ringInv_keptByRing.step h (fun _ _ _ done e hok => (h.congr e).ringWrite hok done) hstep

/-! ## The bytes (O49) -/

/-- The byte at `off` of entry `k` is that of `s` and the entry holds no fewer bytes, or the entry is empty (R114). -/
def State.KeepsByte (s : State) (k : BitVec 4) (off : Nat) (t : State) : Prop :=
  (t.ringByte k off = s.ringByte k off ∧ s.rxCount k ≤ t.rxCount k) ∨ t.rxCount k = 0

theorem keepsByte_keptByRing (s : State) (k : BitVec 4) (off : Nat) : KeptByRing (s.KeepsByte k off) where
  congr {u v} h e := by
    obtain ⟨-, -, ering, edata, -⟩ := State.ringView_eq.mp e
    simpa only [State.KeepsByte, State.ringByte, State.rxCount, State.entry, ering, edata] using h
  flush u j h := by
    by_cases hkj : k = j
    · exact .inr (by rw [State.rxCount, State.entry_flushEntry, if_pos hkj]; rfl)
    · have hcount : (u.flushEntry j).rxCount k = u.rxCount k := by
        rw [State.rxCount, State.entry_flushEntry, if_neg hkj, State.rxCount]
      have hbyte : (u.flushEntry j).ringByte k off = u.ringByte k off := by simp [State.ringByte]
      rwa [State.KeepsByte, hcount, hbyte]
  begin _ h := h
  initialise u _ := .inr (by
    have hring : u.initialise.ring = List.replicate u.cfg.ringN ⟨.pending, 0⟩ :=
      congrArg (·.2.2.1) u.initialise_ringView
    rw [State.rxCount, State.entry, hring, List.getD_eq_getElem?_getD, List.getElem?_replicate]
    split <;> rfl)

/-- The bytes after a ring write, by address (R113). -/
theorem State.RingInv.read_ringWrite {s : State} (h : s.RingInv) (k : BitVec 4) (bytes : List Byte) (done : Bool)
    (a : Nat) :
    (s.ringWrite k bytes done).ringData.read a =
      if ringAddr k (s.rxCount k) ≤ a ∧ a < ringAddr k (s.rxCount k) + bytes.length then
        bytes.getD (a - ringAddr k (s.rxCount k)) 0
      else s.ringData.read a :=
  Memory.read_writeList bytes _ a h.memory

/-- A ring write stores after the bytes of its entry, and no address of another entry (R113; log entry 15). -/
theorem State.RingInv.ringByte_ringWrite {s : State} (h : s.RingInv) {j : BitVec 4} {bytes : List Byte}
    (hok : s.ringWriteOk j bytes = true) (done : Bool) {k : BitVec 4} {off : Nat} (hoff : off < s.rxCount k) :
    (s.ringWrite j bytes done).ringByte k off = s.ringByte k off := by
  obtain ⟨-, -, -, -, -, hlt, -⟩ := (s.ringWriteOk_iff j bytes).mp hok
  have hk : s.rxCount k < 4096 := (s.entry k).rxCount.isLt
  have hapart : ¬(ringAddr j (s.rxCount j) ≤ ringAddr k off ∧
      ringAddr k off < ringAddr j (s.rxCount j) + bytes.length) := by
    unfold ringAddr
    by_cases hkj : k = j
    · subst hkj
      omega
    · have hne : k.toNat ≠ j.toNat := fun e => hkj (BitVec.eq_of_toNat_eq e)
      omega
  rw [State.ringByte, h.read_ringWrite, if_neg hapart, State.ringByte]

/-- A ring write takes no byte from an entry (R113). -/
theorem State.RingInv.rxCount_le_ringWrite {s : State} (h : s.RingInv) {j : BitVec 4} {bytes : List Byte}
    (hok : s.ringWriteOk j bytes = true) (done : Bool) (k : BitVec 4) :
    s.rxCount k ≤ (s.ringWrite j bytes done).rxCount k := by
  obtain ⟨hj, -, -, -, -, hlt, -⟩ := (s.ringWriteOk_iff j bytes).mp hok
  have hlen : j.toNat < s.ring.length := h.entries ▸ hj
  rw [State.rxCount, State.rxCount, State.entry, State.entry, State.ringWrite_ring, getD_ring_set]
  by_cases hkj : k = j
  · subst hkj
    rw [if_pos ⟨rfl, hlen⟩, BitVec.toNat_ofNat, Nat.mod_eq_of_lt hlt]
    exact Nat.le_add_right _ _
  · rw [if_neg (fun e => hkj e.1)]

/-- Settles O49: a ring write keeps the bytes below the byte count, and all else keeps the ring's bytes and its entries,
or empties an entry. -/
theorem ringBytesStable : Obligations.RingBytesStable := by
  intro s t k off h hstep hoff
  refine (keepsByte_keptByRing s k off).step (.inl ⟨rfl, le_rfl⟩) (fun u j bytes done e hok => .inl ?_) hstep
  have hu : u.RingInv := h.congr e
  obtain ⟨-, -, ering, edata, -⟩ := State.ringView_eq.mp e
  have hcount : u.rxCount k = s.rxCount k := by simp only [State.rxCount, State.entry, ering]
  have hbyte : u.ringByte k off = s.ringByte k off := by simp only [State.ringByte, edata]
  rw [← hbyte, ← hcount]
  exact ⟨hu.ringByte_ringWrite hok done (hcount.symm ▸ hoff), hu.rxCount_le_ringWrite hok done k⟩

end Sys2Proof.Machine
end

section
/-!
PROOFS. O59: descriptors in flight are rewritten in their status alone, but for CCA's successor in STOP_ALL
(20_memory.md R124; 40_scheduler.md R248; 70_reset_and_hazards.md R552). A slot is built only while its principal is free.
-/

namespace Sys2Proof.Machine

/-- A descriptor but for its status. -/
def Desc.body (d : Desc) := (d.trigger, d.startTime, d.next, d.cond, d.param0, d.param1)

/-! ## What is in flight -/

/-- A chain whose principal is free has no member in flight (40_scheduler.md R268). -/
theorem State.FlightInv.not_mem_chainSlots {s : State} (h : s.FlightInv) {p x : Slot} (hp : p ∈ principals)
    (hfree : s.inflight.get p = false) (hin : s.inflight.get x = true) : x ∉ chainSlots p := fun hx => by
  rw [h.principal hp hx hin] at hfree
  cases hfree

/-- SETUP and the timer-compare slots are not in flight (10_state.md R37). -/
theorem State.FlightInv.ne_tcSlot {s : State} (h : s.FlightInv) {x : Slot} (hin : s.inflight.get x = true)
    (ch : TcChan) : x ≠ ch.slot := by
  obtain ⟨-, htcA, htcB⟩ := h.never
  rintro rfl
  cases ch
  · exact absurd hin (by simp [TcChan.slot, PerSlot.get, htcA])
  · exact absurd hin (by simp [TcChan.slot, PerSlot.get, htcB])

/-- A slot in flight is one of the chain of a principal in flight (R268). -/
theorem State.FlightInv.exists_principal {s : State} (h : s.FlightInv) {x : Slot} (hin : s.inflight.get x = true) :
    ∃ p ∈ principals, s.inflight.get p = true := by
  obtain ⟨hsetup, htcA, htcB⟩ := h.never
  cases x with
  | setup => exact absurd hin (by simp [PerSlot.get, hsetup])
  | tcA => exact absurd hin (by simp [PerSlot.get, htcA])
  | tcB => exact absurd hin (by simp [PerSlot.get, htcB])
  | fsRx | rx => exact ⟨.rx, by decide, h.principal (p := .rx) (by decide) (by decide) hin⟩
  | fsTx | cca | tx => exact ⟨.tx, by decide, h.principal (p := .tx) (by decide) (by decide) hin⟩
  | ack => exact ⟨.ack, by decide, hin⟩
  | noop => exact ⟨.noop, by decide, hin⟩

/-- With a slot in flight the counter is not 0 (10_state.md R36). -/
theorem State.FlightInv.cntTotal_pos {s : State} (h : s.FlightInv) {x : Slot} (hin : s.inflight.get x = true) :
    0 < s.cntTotal.toNat := by
  obtain ⟨p, hp, hpin⟩ := h.exists_principal hin
  rw [h.total]
  exact List.length_pos_of_mem (List.mem_filter.mpr ⟨hp, hpin⟩)

/-- With a slot in flight the machine is ready (70_reset_and_hazards.md R541, R542). -/
theorem State.FlightInv.ready_of_inflight {s : State} (h : s.FlightInv) {x : Slot} (hin : s.inflight.get x = true) :
    s.ready := by
  have hpos := h.cntTotal_pos hin
  have hup : ¬(s.init = false ∨ s.fatal = true) := fun hd => by simp [h.down hd] at hpos
  simpa [State.ready] using hup

/-! ## What the operations do to a descriptor -/

/-- Building a chain writes its members alone (40_scheduler.md R231). -/
theorem State.buildChain_desc {p0 p1 : Slot → Word} {x : Slot} (l : List Slot) (hx : x ∉ l) :
    ∀ (s : State) (head : Bool), (s.buildChain p0 p1 head l).desc.get x = s.desc.get x := by
  induction l with
  | nil => exact fun _ _ => rfl
  | cons y l ih =>
    intro s head
    rw [List.mem_cons, not_or] at hx
    rw [State.buildChain, ih hx.2]
    simp [hx.1]

theorem State.mem_rxChain {s : State} {ch : Half} {x : Slot} (hx : x ∈ s.rxChain ch) : x ∈ chainSlots .rx := by
  revert hx
  unfold State.rxChain
  split <;> cases x <;> decide

theorem State.mem_txChain {s : State} {ch : Half} {cca : Bool} {x : Slot} (hx : x ∈ s.txChain ch cca) :
    x ∈ chainSlots .tx := by
  revert hx
  unfold State.txChain
  split <;> cases cca <;> cases x <;> decide

theorem State.doSubmitRx_desc (s : State) (ch : Half) {x : Slot} (hx : x ∉ chainSlots .rx) :
    (s.doSubmitRx ch).2.desc.get x = s.desc.get x := by
  have hbuilt : (s.chainRx ch).desc.get x = s.desc.get x :=
    State.buildChain_desc _ (mt State.mem_rxChain hx) s true
  rw [State.doSubmitRx_eq]
  dsimp only
  split <;> simp [hbuilt]

theorem State.doSubmitTx_desc (s : State) (ch : Half) (f : BitVec 4) (a0 a1 : Word) {x : Slot}
    (hx : x ∉ chainSlots .tx) : (s.doSubmitTx ch f a0 a1).2.desc.get x = s.desc.get x := by
  have hbuilt : (s.chainTx ch (f.getLsbD 1) (txBufField a1) (txLenField a1) a0).desc.get x = s.desc.get x :=
    State.buildChain_desc _ (mt State.mem_txChain hx) s true
  rw [State.doSubmitTx_eq]
  dsimp only
  split
  · split <;> simpa using hbuilt
  · rfl

theorem State.doSubmitNoop_desc (s : State) {x : Slot} (hx : x ∉ chainSlots .noop) :
    s.doSubmitNoop.2.desc.get x = s.desc.get x := by
  have hbuilt : s.chainNoop.desc.get x = s.desc.get x := State.buildChain_desc _ hx s true
  rw [State.doSubmitNoop_eq]
  dsimp only
  split <;> simp [hbuilt]

/-- Terminal statuses are written into statuses alone (R262). -/
theorem PerSlot.setStatuses_body (x : Slot) : ∀ (l : List Slot) (vs : List CmdStatus) (m : PerSlot Desc),
    ((m.setStatuses l vs).get x).body = (m.get x).body
  | [], _, _ => rfl
  | _ :: _, [], _ => rfl
  | y :: l, v :: vs, m => by
    rw [PerSlot.setStatuses, PerSlot.setStatuses_body x l vs, PerSlot.get_set]
    split_ifs with hxy
    · subst hxy
      rfl
    · rfl

theorem State.terminal_body (s : State) (p : Slot) (kind : EndKind) (x : Slot) :
    ((s.terminal p kind).desc.get x).body = (s.desc.get x).body := by
  unfold State.terminal
  dsimp only
  split_ifs
  · simp [State.memberStatuses_eq, PerSlot.setStatuses_body]
  · simp

/-- A terminal event takes the chain of its own principal out of flight, and no other (R260). -/
theorem State.terminal_inflight (s : State) (p : Slot) (kind : EndKind) {x : Slot} (hx : x ∉ chainSlots p) :
    (s.terminal p kind).inflight.get x = s.inflight.get x := by
  unfold State.terminal
  dsimp only
  split_ifs
  · simp [State.get_setAll_inflightChain, hx]
  · simp

/-! ## Events -/

/-- The descriptor of `x` is that of `s` but for its status, and ACK is in flight if it is the slot. -/
def State.KeepsDesc (s : State) (x : Slot) (t : State) : Prop :=
  (t.desc.get x).body = (s.desc.get x).body ∧ (x = .ack → t.inflight.get .ack = true)

theorem State.keepsDesc_refl {s : State} {x : Slot} (hin : s.inflight.get x = true) : s.KeepsDesc x s :=
  ⟨rfl, fun hx => hx ▸ hin⟩

/-- The receive machine builds no descriptor but ACK's, and that only while ACK is free (R321, R353). -/
theorem keepsDesc_keptByReceive (s : State) (x : Slot) : KeptByReceive (s.KeepsDesc x) where
  congr {u v} h e := by
    obtain ⟨edesc, eflight⟩ : v.desc = u.desc ∧ v.inflight = u.inflight := by simp_all
    rwa [State.KeepsDesc, edesc, eflight]
  flush u k h := by simpa [State.KeepsDesc] using h
  begin _ h := h
  buildAck u p q w h hfree := by
    have hx : x ≠ .ack := fun hx => by
      have hin : u.inflight.ack = true := h.2 hx
      simp [hfree] at hin
    exact ⟨by simpa [hx] using h.1, fun hack => absurd hack hx⟩
  acceptAck u h := ⟨by simpa using h.1, fun _ => by simp [PerSlot.get_setAll]⟩

/-- The frame events are RX's alone (30_encoding.md R189). -/
theorem eq_rx_of_eventMask {h : Slot} {b : Nat} (hb : b = 0 ∨ b = 1 ∨ b = 2 ∨ b = 3)
    (hmask : h.eventMask.getLsbD b = true) : h = .rx := by
  obtain rfl | rfl | rfl | rfl := hb <;> revert hmask <;> cases h <;> decide

/-- The rule of an event bit of another handle than RX builds nothing (R160). -/
theorem State.bitRule_body {s : State} {h : Slot} {b : Nat} (hrx : h ≠ .rx)
    (hmask : h.eventMask.getLsbD b = true) (x : Slot) : ((s.bitRule h b).desc.get x).body = (s.desc.get x).body := by
  unfold State.bitRule
  split
  · exact absurd (eq_rx_of_eventMask (by simp) hmask) hrx
  · exact absurd (eq_rx_of_eventMask (by simp) hmask) hrx
  · exact absurd (eq_rx_of_eventMask (by simp) hmask) hrx
  · exact absurd (eq_rx_of_eventMask (by simp) hmask) hrx
  · exact s.terminal_body h .done x
  · exact s.terminal_body h .stopped x
  · exact s.terminal_body h .preempted x
  · simp

/-- The rule of an event bit of RX (R160): the receive machine's, or the end of RX, which leaves ACK in flight. -/
theorem State.KeepsDesc.bitRule_rx {s u : State} {x : Slot} (h : s.KeepsDesc x u) (b : Nat) :
    s.KeepsDesc x (u.bitRule .rx b) := by
  have k := keepsDesc_keptByReceive s x
  have ends (kind : EndKind) : s.KeepsDesc x (u.terminal .rx kind) :=
    ⟨(u.terminal_body .rx kind x).trans h.1, fun hx => (u.terminal_inflight .rx kind (by decide)).trans (h.2 hx)⟩
  unfold State.bitRule
  split
  · exact k.preambleEvent h
  · exact k.frameOkEvent h
  · exact k.badCrcEvent h
  · exact k.bufFullEvent h
  · exact ends .done
  · exact ends .stopped
  · exact ends .preempted
  · exact k.congr h (by simp)

/-- The set bits of an event word keep what the count and the rules of its handle's bits keep (R161). -/
theorem State.eventBits_keeps {P : State → Prop} {s : State} (h : Slot) (bits : Byte) (hs : P s)
    (count : ∀ u, P u → P (State.count u .unexpectedEvent))
    (rule : ∀ u b, P u → h.eventMask.getLsbD b = true → P (State.bitRule u h b)) : P (s.eventBits h bits) := by
  unfold State.eventBits
  generalize [0, 1, 2, 3, 4, 5, 6, 7] = l
  induction l generalizing s with
  | nil => exact hs
  | cons b l ih =>
    rw [List.foldl_cons]
    refine ih ?_
    unfold State.eventBit
    split_ifs with _ hmask
    · exact rule s b hs hmask
    · exact count s hs
    · exact hs

/-- An event word rewrites no descriptor in flight but for its status. -/
theorem State.deliverEvent_body {s : State} {x : Slot} (hin : s.inflight.get x = true) (handle bits : Byte) :
    ((s.deliverEvent handle bits).desc.get x).body = (s.desc.get x).body := by
  unfold State.deliverEvent State.guardEvt
  split_ifs
  · simp
  · rfl
  split
  · simp
  rename_i h _
  by_cases hrx : h = .rx
  · subst hrx
    exact (State.eventBits_keeps (P := s.KeepsDesc x) .rx bits (State.keepsDesc_refl hin)
      (fun u hu => (keepsDesc_keptByReceive s x).congr hu (by simp)) fun _ b hu _ => hu.bitRule_rx b).1
  · exact State.eventBits_keeps (P := fun u => (u.desc.get x).body = (s.desc.get x).body) h bits rfl
      (fun u hu => by simpa using hu) fun _ _ hu hmask => (State.bitRule_body hrx hmask x).trans hu

/-! ## Commands -/

theorem State.guardCmd_desc {s : State} {body : State → State} {x : Slot}
    (run : (body s).desc.get x = s.desc.get x) : (s.guardCmd body).desc.get x = s.desc.get x :=
  State.guardCmd_keeps (P := fun t => t.desc.get x = s.desc.get x) (by simp) (by simp) fun _ => run

/-- STOP_ALL cuts off CCA's successor and rewrites nothing else (R248). -/
theorem cmdStopAll_desc (graceful : Bool) {s : State} (hr : s.ready) (x : Slot) :
    (cmdStopAll graceful s).desc.get x =
      if x = .cca then { s.desc.get x with next := none } else s.desc.get x := by
  rw [cmdStopAll, State.guardCmd_ready hr.1 hr.2]
  cases x <;> simp [PerSlot.get]

section
variable {s : State} {x : Slot} (h : s.FlightInv) (hin : s.inflight.get x = true)
include h hin

/-- INIT is turned away while a slot is in flight (R230). -/
theorem State.FlightInv.cmdInit_desc : (cmdInit s).desc.get x = s.desc.get x := by
  obtain ⟨hi, hf⟩ := h.ready_of_inflight hin
  have hpos := h.cntTotal_pos hin
  rw [cmdInit_eq, if_neg (by simp [hf]), if_pos (by simp [hi, hpos])]
  simp

theorem State.FlightInv.doSubmitRx_desc (ch : Half) (hfree : ¬s.inflight.rx = true) :
    (s.doSubmitRx ch).2.desc.get x = s.desc.get x :=
  State.doSubmitRx_desc s ch (h.not_mem_chainSlots (by decide) (by simpa [PerSlot.get] using hfree) hin)

theorem State.FlightInv.doSubmitTx_desc (ch : Half) (f : BitVec 4) (a0 a1 : Word)
    (hfree : ¬(s.inflight.tx || s.ackWait) = true) : (s.doSubmitTx ch f a0 a1).2.desc.get x = s.desc.get x := by
  have htx : s.inflight.get .tx = false := by simp_all [PerSlot.get]
  exact State.doSubmitTx_desc s ch f a0 a1 (h.not_mem_chainSlots (by decide) htx hin)

theorem State.FlightInv.doSubmitNoop_desc (hfree : ¬s.inflight.noop = true) :
    s.doSubmitNoop.2.desc.get x = s.desc.get x :=
  State.doSubmitNoop_desc s (h.not_mem_chainSlots (by decide) (by simpa [PerSlot.get] using hfree) hin)

theorem State.FlightInv.cmdSubmitRx_desc (ch : Half) : (cmdSubmitRx ch s).desc.get x = s.desc.get x := by
  refine State.guardCmd_desc ?_
  split_ifs with _ _ hfree
  · simp
  · simp
  · simp
  · simpa [submitResult] using h.doSubmitRx_desc hin ch hfree

theorem State.FlightInv.cmdSubmitTx_desc (ch : Half) (ackReq cca : Bool) :
    (cmdSubmitTx ch ackReq cca s).desc.get x = s.desc.get x := by
  refine State.guardCmd_desc ?_
  split_ifs with _ hfree
  · simp
  · simp
  · simpa [submitResult] using h.doSubmitTx_desc hin ch _ _ _ hfree

theorem State.FlightInv.cmdSubmitNoop_desc : (cmdSubmitNoop s).desc.get x = s.desc.get x := by
  refine State.guardCmd_desc ?_
  split_ifs with hfree
  · simp
  · simpa [submitResult] using h.doSubmitNoop_desc hin hfree

theorem State.FlightInv.cmdSetupTc_desc (ch : TcChan) (cb : Half) :
    (cmdSetupTc ch cb s).desc.get x = s.desc.get x := by
  rw [cmdSetupTc_eq]
  exact State.guardCmd_desc (by simp [h.ne_tcSlot hin ch])

/-- What a command does to a descriptor in flight: nothing, unless it is STOP_ALL and the slot is CCA. -/
theorem State.FlightInv.command_desc {i : Instr} {t : State} (hport : i.port = .cmd) (hexp : i.expansion = [i])
    (he : exec i s = .next t) :
    t.desc.get x = s.desc.get x ∨
      (x = .cca ∧ t.desc.get x = { s.desc.get x with next := none } ∧ ∃ g, i = .stopAll g) := by
  cases i <;> cases he
  case evtPreamble | evtFrameOk | evtBadCrc | evtBufFull | evtCmdDone | evtCmdStopped | evtCmdPreempted | evtTcFired =>
    cases hport
  case backoffCancel | stopNow | stopGraceful | tcRearm | setAddr | promiscOn => cases hexp
  case init => exact .inl (h.cmdInit_desc hin)
  case submitRx ch => exact .inl (h.cmdSubmitRx_desc hin ch)
  case submitTx ch ackReq cca => exact .inl (h.cmdSubmitTx_desc hin ch ackReq cca)
  case submitNoop => exact .inl (h.cmdSubmitNoop_desc hin)
  case setupTc ch cb => exact .inl (h.cmdSetupTc_desc hin ch cb)
  case stopAll g =>
    rw [cmdStopAll_desc g (h.ready_of_inflight hin) x]
    split_ifs with hcca
    · exact .inr ⟨hcca, rfl, g, rfl⟩
    · exact .inl rfl
  case updateTxPower | dcRecord | backoffReq => exact .inl (State.guardCmd_desc (by split <;> simp))
  case dcCheck | dcAdvance | setRole | setPan | setShort | setExt | setFilterMode =>
    exact .inl (State.guardCmd_desc (by simp))

/-! ## Agents -/

/-- A retry submits by the rules of the class's command (43_backoff_timers.md R435). -/
theorem State.FlightInv.retrySubmit_desc (c : OpClass) (a : RetryArgs) :
    (s.retrySubmit c a).2.desc.get x = s.desc.get x := by
  cases c with
  | rx =>
    simp only [State.retrySubmit]
    split_ifs with _ hfree
    · rfl
    · rfl
    · exact h.doSubmitRx_desc hin a.channel hfree
  | tx =>
    simp only [State.retrySubmit]
    split_ifs with hfree
    · rfl
    · exact h.doSubmitTx_desc hin _ _ _ _ hfree
  | noop =>
    simp only [State.retrySubmit]
    split_ifs with hfree
    · rfl
    · exact h.doSubmitNoop_desc hin hfree

theorem State.FlightInv.retryStep_desc (c : OpClass) : (s.retryStep c).desc.get x = s.desc.get x := by
  have outcome (u : State) (out : ResultCode) : (u.retryOutcome c out).desc = u.desc := by
    cases out <;> simp [State.retryOutcome, State.dropRetry]
  have htaken : State.FlightInv { s with retryEvt := s.retryEvt.set c false } := h.of_view rfl
  rw [State.retryStep_eq]
  dsimp only
  split_ifs
  · rw [outcome, htaken.retrySubmit_desc hin c]
  · rfl

theorem State.FlightInv.agentStep_body (a : Agent) : ((s.agentStep a).desc.get x).body = (s.desc.get x).body := by
  cases a with
  | parser => exact ((keepsDesc_keptByReceive s x).stageStep (State.keepsDesc_refl hin)).1
  | boTimer c => simp [State.agentStep]
  | retry c => rw [State.agentStep, h.retryStep_desc hin c]
  | ackTimer => simp [State.agentStep]

end

/-! ## Every step -/

/-- The move delivers a word of `i` to its port (30_encoding.md R151, R161). -/
def Move.Delivers (m : Move) (i : Instr) : Prop :=
  ∃ w, (m = .regWrite 4 0x000 w ∧ decodeCmd w = .ok i) ∨ (m = .event w ∧ decodeEvt w = .ok i)

/-- What a move does to the arena: it runs the instruction it delivers, or an agent steps, or nothing. -/
theorem runMove_arena {m : Move} {s t : State} (h : runMove m s = .next t) :
    (∃ i, m.Delivers i ∧ exec i s = .next t) ∨ (∃ a, t = s.agentStep a) ∨ t.desc = s.desc := by
  cases m with
  | regWrite width off v =>
    simp only [runMove, State.hostWrite] at h
    split_ifs at h with haccess
    unfold writeReg at h
    split_ifs at h with hcmd
    · have hoff : off = 0x000 := BitVec.eq_of_toNat_eq hcmd
      unfold cmdWrite at h
      split at h
      · rename_i i hi
        exact .inl ⟨i, ⟨v, .inl ⟨by rw [haccess.1, hoff], hi⟩⟩, h⟩
      · cases h
        refine .inr (.inr ?_)
        unfold State.illegalCmd
        split_ifs <;> simp
    all_goals cases h; exact .inr (.inr rfl)
  | regRead width off =>
    simp only [runMove, State.hostRead] at h
    split_ifs at h
    cases h
    exact .inr (.inr (State.readReg_keeps (P := fun u => u.desc = s.desc) _ rfl (fun _ _ hu => hu) fun _ _ hu => hu))
  | event w =>
    simp only [runMove, eventWord] at h
    split at h
    · rename_i i hi
      exact .inl ⟨i, ⟨w, .inr ⟨rfl, hi⟩⟩, h⟩
    · cases h
      exact .inr (.inr (State.badEventWord_keeps (P := fun u => u.desc = s.desc) rfl (by simp) (by simp)))
  | ringWrite j bytes done =>
    simp only [runMove, State.radioWrite] at h
    split_ifs at h
    cases h
    exact .inr (.inr rfl)
  | agent a =>
    simp only [runMove, State.scheduledAgent] at h
    split_ifs at h
    cases h
    exact .inr (.inl ⟨a, rfl⟩)

/-- A CMD word decodes to a command that stands for itself (R154, R201). -/
theorem port_expansion_of_decodeCmd {w : Word} {i : Instr} (h : decodeCmd w = .ok i) :
    i.port = .cmd ∧ i.expansion = [i] := by
  obtain ⟨r, hr, -, rfl⟩ := (decodeCmd_ok_iff w i).mp h
  have hrow := List.mem_of_find?_eq_some hr
  simp only [cmdTable, List.mem_append, List.mem_cons, List.not_mem_nil, or_false, or_assoc] at hrow
  rcases hrow with rfl | rfl | rfl | rfl | rfl | rfl | rfl | rfl | rfl | rfl | rfl | rfl | rfl | rfl | rfl | rfl
  all_goals exact ⟨rfl, rfl⟩

/-- An EVT word decodes to an event (R160, R161). -/
theorem port_of_decodeEvt {w : Word} {i : Instr} (h : decodeEvt w = .ok i) : i.port = .evt := by
  unfold decodeEvt at h
  split_ifs at h
  cases hi : eventInstr (handleField w) (eventField w) with
  | none => simp [hi] at h
  | some j =>
    simp only [hi, Except.ok.injEq] at h
    subst h
    unfold eventInstr at hi
    split_ifs at hi <;> cases hi <;> rfl

/-- What a step does to a descriptor in flight: nothing but to its status, unless it runs STOP_ALL and the slot is CCA. -/
theorem State.FlightInv.step_desc {s t : State} (h : s.FlightInv) {x : Slot} (hin : s.inflight.get x = true)
    (hstep : step s = .next t) :
    (t.desc.get x).body = (s.desc.get x).body ∨
      (x = .cca ∧ t.desc.get x = { s.desc.get x with next := none } ∧
        ∃ w rest g, s.sched = .regWrite 4 0x000 w :: rest ∧ decodeCmd w = .ok (.stopAll g)) := by
  obtain ⟨hc, ⟨-, rfl⟩ | ⟨m, rest, hs, -⟩⟩ := step_cases hstep
  · obtain hwait | ⟨a, -, hagent⟩ := s.idleStep_cases
    · exact .inl (by rw [hwait])
    · have hbumped : s.bumpFree.FlightInv := h.of_view (by simp)
      exact .inl (by rw [hagent]; exact hbumped.agentStep_body hin a)
  · rw [step_of_sched hc hs] at hstep
    have hu : State.FlightInv { s with sched := rest } := h.of_view rfl
    obtain ⟨i, ⟨w, ⟨rfl, hd⟩ | ⟨-, hd⟩⟩, he⟩ | ⟨a, rfl⟩ | hdesc := runMove_arena hstep
    · obtain ⟨hport, hexp⟩ := port_expansion_of_decodeCmd hd
      obtain hkept | ⟨hcca, hcut, g, rfl⟩ := hu.command_desc hin hport hexp he
      · exact .inl (congrArg Desc.body hkept)
      · exact .inr ⟨hcca, hcut, w, rest, g, hs, hd⟩
    · obtain ⟨handle, bits, hevent⟩ := exec_of_port_evt (port_of_decodeEvt hd)
      rw [hevent] at he
      cases he
      exact .inl (State.deliverEvent_body (s := { s with sched := rest }) hin handle bits)
    · exact .inl (hu.agentStep_body hin a)
    · exact .inl (by rw [hdesc])

/-- Settles O59: the chains that are built are free, terminal events write statuses, and STOP_ALL cuts off CCA's
successor (`State.FlightInv.step_desc`). -/
theorem descriptorsStable : Obligations.DescriptorsStable := by
  intro s t x h hstep hin d e
  obtain hbody | ⟨hcca, hcut, hstop⟩ := h.step_desc hin hstep
  · simp only [Desc.body, Prod.mk.injEq] at hbody
    obtain ⟨htrigger, hstart, hnext, hcond, hparam0, hparam1⟩ := hbody
    exact ⟨htrigger, hstart, hcond, hparam0, hparam1, .inl hnext⟩
  · rw [show e = { d with next := none } from hcut]
    exact ⟨rfl, rfl, rfl, rfl, rfl, .inr ⟨hcca, rfl, hstop⟩⟩

end Sys2Proof.Machine
end

section
/-!
PROOFS. O47: the accesses of the register interface (20_memory.md R103, R105). A listed offset is one of the blocks of
R106; a write past ARG1 is ignored and a read changes the bus and the draws alone.
-/

namespace Sys2Proof.Machine

/-! ## The listed offsets -/

/-- The registers of one offset each fill 0x000 to 0x07C (R106). -/
theorem State.regFixed_isSome_iff (s : State) (off : Nat) :
    (s.regFixed off).isSome = true ↔ off % 4 = 0 ∧ off < 0x080 := by
  constructor
  · intro h
    obtain ⟨w, hw⟩ := Option.isSome_iff_exists.mp h
    exact State.regFixed_offset hw
  · rintro ⟨hword, hlt⟩
    obtain ⟨j, rfl⟩ := Nat.dvd_of_mod_eq_zero hword
    have hj : j < 32 := by omega
    interval_cases j <;> rfl

theorem exists_slotOfNum {n : Nat} (h : n < 10) : ∃ x, slotOfNum n = some x := by
  interval_cases n <;> exact ⟨_, rfl⟩

/-- The blocks of the registers that repeat (R106). -/
theorem State.regRepeated_isSome_iff (s : State) (off : Nat) (status : BitVec 2) :
    (s.regRepeated off status).isSome = true ↔
      (0x080 ≤ off ∧ off < 0x0D0) ∨ (0x100 ≤ off ∧ off < 0x100 + 4 * s.cfg.nBuckets) ∨
        (0x200 ≤ off ∧ off < 0x2A0) ∨ (0x300 ≤ off ∧ off < 0x300 + 4 * s.cfg.ringN) := by
  unfold State.regRepeated
  split_ifs with hdiag hbucket hdesc hring
  · exact iff_of_true rfl (.inl hdiag)
  · exact iff_of_true rfl (.inr (.inl hbucket))
  · obtain ⟨x, hx⟩ := exists_slotOfNum (n := (off - 0x200) / 16) (by omega)
    refine iff_of_true ?_ (.inr (.inr (.inl hdesc)))
    rw [hx]
    split <;> trivial
  · exact iff_of_true rfl (.inr (.inr (.inr hring)))
  · exact iff_of_false (by decide) (by omega)

/-- The offsets R106 lists. -/
def State.Listed (s : State) (off : Nat) : Prop :=
  off % 4 = 0 ∧ (off < 0x0D0 ∨ (0x100 ≤ off ∧ off < 0x100 + 4 * s.cfg.nBuckets) ∨ (0x200 ≤ off ∧ off < 0x2A0) ∨
    (0x300 ≤ off ∧ off < 0x300 + 4 * s.cfg.ringN))

theorem State.regListed_iff (s : State) (off : Nat) : s.regListed off = true ↔ s.Listed off := by
  unfold State.regListed State.regValue State.Listed
  split_ifs with hword hfixed
  · exact iff_of_false (by decide) fun h => hword h.1
  · rw [State.regFixed_isSome_iff]
    omega
  · rw [State.regRepeated_isSome_iff]
    omega

/-! ## The accesses -/

section
variable {s : State} {rest : List Move} (hc : s.cfg.admitted = true)
include hc

/-- A host write of another width or of an unlisted offset faults (R103). -/
theorem step_write_fault {width : Nat} {off : BitVec 12} {v : Word} (hs : s.sched = .regWrite width off v :: rest)
    (h : ¬(width = 4 ∧ s.Listed off.toNat)) : step s = .fault .registerAccess := by
  rw [step_of_sched hc hs, runMove, State.hostWrite]
  exact if_neg (mt (And.imp_right (State.regListed_iff _ _).mp) h)

/-- A host read of another width or of an unlisted offset faults (R103). -/
theorem step_read_fault {width : Nat} {off : BitVec 12} (hs : s.sched = .regRead width off :: rest)
    (h : ¬(width = 4 ∧ s.Listed off.toNat)) : step s = .fault .registerAccess := by
  rw [step_of_sched hc hs, runMove, State.hostRead]
  exact if_neg (mt (And.imp_right (State.regListed_iff _ _).mp) h)

/-- A host write of a listed register (R103). -/
theorem step_write {off : BitVec 12} {v : Word} (hs : s.sched = .regWrite 4 off v :: rest)
    (h : s.Listed off.toNat) : step s = writeReg off.toNat v { s with sched := rest } := by
  rw [step_of_sched hc hs, runMove, State.hostWrite]
  exact if_pos ⟨rfl, (State.regListed_iff _ _).mpr h⟩

end

/-- The registers after ARG1 are read-only: a write of one is ignored (R105). -/
theorem writeReg_of_readOnly {off : Nat} (h : 0x00C ≤ off) (v : Word) (s : State) : writeReg off v s = .next s := by
  rw [writeReg, if_neg (by omega), if_neg (by omega), if_neg (by omega)]

/-- A read changes nothing but the bus and the draws (R105). -/
theorem State.readReg_frame (s : State) (off : Nat) :
    s.readReg off = { s with draws := (s.readReg off).draws, busData := (s.readReg off).busData } :=
  State.readReg_keeps (P := fun t => t = { s with draws := t.draws, busData := t.busData }) off rfl
    (fun t d ht => by rw [ht]) fun t v ht => by rw [ht]

/-- Settles O47: an access steps exactly at a listed offset, and there a write reaches the two operands alone and a read
the bus and the draws. -/
theorem registerAccess : Obligations.RegisterAccess := by
  intro s width off v rest hc u o listed
  refine ⟨step_write_fault hc, step_read_fault hc, fun hs => ?_, fun hs => ?_, fun hs hl ho => ?_, fun hs hl => ?_⟩
  · exact step_write hc hs ⟨by decide, .inl (by decide)⟩
  · exact step_write hc hs ⟨by decide, .inl (by decide)⟩
  · rw [step_write hc hs hl]
    exact writeReg_of_readOnly ho v u
  · exact ⟨_, step_read hc hs ((s.regListed_iff o).mpr hl), u.readReg_frame o⟩

end Sys2Proof.Machine
end

section
/-!
PROOFS. O48: the radio's ring write (20_memory.md R112, R113, R115; 60_exceptions.md R498). The duties are the model's own
check, and the bytes land behind those the entry holds.
-/

namespace Sys2Proof.Machine

theorem RingStatus.ne_full_iff (r : RingStatus) : r ≠ .full ↔ r = .pending ∨ r = .active := by cases r <;> decide

/-- A ring write stores its bytes behind those the entry holds (R113). -/
theorem State.RingInv.ringByte_ringWrite_new {s : State} (h : s.RingInv) (k : BitVec 4) (bytes : List Byte)
    (done : Bool) {i : Nat} (hi : i < bytes.length) :
    (s.ringWrite k bytes done).ringByte k (s.rxCount k + i) = bytes.getD i 0 := by
  have haddr : ringAddr k (s.rxCount k + i) = ringAddr k (s.rxCount k) + i := by
    unfold ringAddr
    omega
  rw [State.ringByte, h.read_ringWrite, haddr, if_pos (by omega), Nat.add_sub_cancel_left]

/-- A ring write stores nowhere else (R113). -/
theorem State.RingInv.read_ringWrite_other {s : State} (h : s.RingInv) (k : BitVec 4) (bytes : List Byte) (done : Bool)
    {a : Nat} (ha : ∀ i < bytes.length, a ≠ ringAddr k (s.rxCount k + i)) :
    (s.ringWrite k bytes done).ringData.read a = s.ringData.read a := by
  rw [h.read_ringWrite, if_neg]
  rintro ⟨hle, hlt⟩
  refine ha (a - ringAddr k (s.rxCount k)) (by omega) ?_
  unfold ringAddr at *
  omega

/-- Settles O48: the duties are the model's check (`State.ringWriteOk_iff`), and the write is the model's. -/
theorem radioReceiveWrite : Obligations.RadioReceiveWrite := by
  intro s k bytes done rest hc h hs position allowed
  have hposition : position ↔ s.atWritePosition k = true := by
    rw [State.atWritePosition_iff]
    cases hl : s.radioLast <;> simp [position, hl]
  have hallowed : allowed ↔ s.ringWriteOk k bytes = true := by
    have hfits (hsome : 1 ≤ bytes.length) : bytes.length ≤ s.cfg.entrySize - s.rxCount k ↔
        s.rxCount k + bytes.length ≤ s.cfg.entrySize := by omega
    rw [State.ringWriteOk_iff, ← hposition, RingStatus.ne_full_iff]
    exact and_congr_right' (and_congr_right' (and_congr_right' (and_congr_right fun hsome =>
      and_congr_left' (hfits hsome))))
  let u : State := { s with sched := rest }
  have hu : u.RingInv := h.congr rfl
  rw [hallowed, step_of_sched hc hs, runMove, State.radioWrite]
  refine ⟨fun hok => ⟨u.ringWrite k bytes done, if_pos hok, rfl, fun i hi => ?_, fun a ha => ?_⟩, fun hno => if_neg hno⟩
  · exact hu.ringByte_ringWrite_new k bytes done hi
  · exact hu.read_ringWrite_other k bytes done ha

end Sys2Proof.Machine
end

section
/-!
PROOFS. O1, O2, O3, O4: the encoder against the decoder (30_encoding.md R153, R154, R159 to R161). A word decodes as the
row of the field table it matches, and an event word as the lowest bit it sets.
-/

namespace Sys2Proof.Machine

/-! ## The field table -/

/-- The OPC byte of a pattern is its row's, and no two rows share one (R153, R154). -/
theorem cmdRow?_opcField_pattern {r : CmdRow} (hr : r ∈ cmdTable) : cmdRow? (opcField r.pattern) = some r := by
  simp only [cmdTable, List.mem_append, List.mem_cons, List.not_mem_nil, or_false, or_assoc] at hr
  rcases hr with rfl | rfl | rfl | rfl | rfl | rfl | rfl | rfl | rfl | rfl | rfl | rfl | rfl | rfl | rfl | rfl
  all_goals rfl

/-- Every mask of the field table holds the whole OPC byte (R154). -/
theorem opcField_and_mask {r : CmdRow} (hr : r ∈ cmdTable) (w : Word) : opcField (w &&& r.mask) = opcField w := by
  have hmask : ∀ r ∈ cmdTable, opcField r.mask = 0xFF := by decide
  have hall : (0xFF : Byte) = BitVec.allOnes 8 := rfl
  have hfields : opcField (w &&& r.mask) = opcField w &&& opcField r.mask := BitVec.extractLsb'_and
  rw [hfields, hmask r hr, hall, BitVec.and_allOnes]

/-- A word that matches a row holds its OPC, so the decoder selects that row (R155). -/
theorem cmdRow?_of_matches {r : CmdRow} (hr : r ∈ cmdTable) {w : Word} (hw : w &&& r.mask = r.pattern) :
    cmdRow? (opcField w) = some r := by
  rw [← opcField_and_mask hr w, hw, cmdRow?_opcField_pattern hr]

/-- A word decodes to an instruction exactly when it matches a row of the table that builds it (R154, R155). -/
theorem decodeCmd_ok_iff_exists_row (w : Word) (i : Instr) :
    decodeCmd w = .ok i ↔ ∃ r ∈ cmdTable, w &&& r.mask = r.pattern ∧ r.build w = i := by
  rw [decodeCmd_ok_iff]
  constructor
  · rintro ⟨r, hr, hw, hi⟩
    exact ⟨r, List.mem_of_find?_eq_some hr, hw, hi⟩
  · rintro ⟨r, hr, hw, hi⟩
    exact ⟨r, cmdRow?_of_matches hr hw, hw, hi⟩

/-- A word is rejected as a reserved opcode exactly when no row of the table has its OPC (R153, R155). -/
theorem decodeCmd_reservedOpcode_iff (w : Word) :
    (∃ o, decodeCmd w = .error (.reservedOpcode o)) ↔ ∀ r ∈ cmdTable, r.opc ≠ opcField w := by
  have hnone : cmdRow? (opcField w) = none ↔ ∀ r ∈ cmdTable, r.opc ≠ opcField w := by simp [cmdRow?]
  rw [← hnone]
  unfold decodeCmd
  cases cmdRow? (opcField w) with
  | none => simp
  | some r => by_cases hw : w &&& r.mask = r.pattern <;> simp [hw]

/-! ## The opcode map (O3) -/

theorem toNat_opcField (w : Word) : (opcField w).toNat = w.toNat % 256 := by
  simp [opcField]

/-- The allowlist of SET_FILTER_MODE is IMM[7:0] (R154). -/
theorem extractLsb'_allow (w : Word) : (w.extractLsb' 16 16).extractLsb' 0 8 = w.extractLsb' 16 8 := by
  ext k hk
  simp
  omega

/-- Settles O3: a command's row is the one row that builds it (`decodeCmd_ok_iff_exists_row`), and the reserved opcodes
are those of no row (`decodeCmd_reservedOpcode_iff`). -/
theorem commandRows : Obligations.CommandRows := by
  intro w
  refine ⟨?init, ?submitRx, ?submitTx, ?submitNoop, ?stopAll, ?updateTxPower, ?setupTc, ?dcRecord, ?dcCheck,
    ?dcAdvance, ?setRole, ?backoffReq, ?setPan, ?setShort, ?setExt, ?setFilterMode, ?reserved⟩
  case reserved =>
    rw [decodeCmd_reservedOpcode_iff, ← toNat_opcField]
    simp [cmdTable, ← BitVec.toNat_inj]
    omega
  case init | submitNoop | dcRecord | dcCheck | dcAdvance | setExt => simp [decodeCmd_ok_iff_exists_row, cmdTable]
  all_goals
    intros
    simp [decodeCmd_ok_iff_exists_row, cmdTable, extractLsb'_allow, flgField, selField, immField, chanOfBit]
    exact fun _ => by simp only [eq_comm]

/-! ## Decoding what the encoder writes (O1) -/

/-- A word of the table decodes to what the row of its OPC builds (R155). -/
theorem decodeCmd_of_matches {w : Word} (h : ∃ k : Fin 16, w &&& (cmdTable.get k).mask = (cmdTable.get k).pattern)
    {r : CmdRow} (hr : cmdRow? (opcField w) = some r) : decodeCmd w = .ok (r.build w) := by
  obtain ⟨k, hk⟩ := h
  have hrow := cmdRow?_of_matches (List.get_mem cmdTable k) hk
  obtain rfl : cmdTable.get k = r := Option.some.inj (hrow.symm.trans hr)
  exact (decodeCmd_ok_iff w _).mpr ⟨_, hr, hk, rfl⟩

/-- The word of a command, which lies in the table (`Laws.TableRow`), decodes to what its row builds of it. -/
theorem decodeCmd_encode {i : Instr} {o : Byte} {sel flg : BitVec 4} {imm : Half} {r : CmdRow}
    (htable : Laws.TableRow.Statement i) (hport : i.port = .cmd) (hword : encode i = [cmdWord o sel flg imm])
    (hr : cmdRow? o = some r) (hbuild : r.build (cmdWord o sel flg imm) = i) :
    (encode i).map (decode i.port) = [.ok i] := by
  have hrow := htable (cmdWord o sel flg imm) (by simp [hword])
  rw [hport] at hrow
  have hdecode := decodeCmd_of_matches hrow ((opcField_cmdWord o sel flg imm).symm ▸ hr)
  rw [hword, hport, List.map_singleton, decode, hdecode, hbuild]

/-- The word of an event decodes to the instruction its bits name (R161). -/
theorem decodeEvt_encode {i : Instr} {h : Byte} (hport : i.port = .evt) (hword : encode i = [evtWord h i.eventBits])
    (hbits : eventInstr h i.eventBits = some i) : (encode i).map (decode i.port) = [.ok i] := by
  rw [hword, hport, List.map_singleton, decode, decodeEvt_evtWord hbits]

theorem flgBits_getLsbD (a b c : Bool) :
    (flgBits a b c).getLsbD 0 = a ∧ (flgBits a b c).getLsbD 1 = b ∧ (flgBits a b c).getLsbD 2 = c := by
  revert a b c
  decide

/-- SEL bit 0 gives a timer-compare channel back (R154). -/
theorem chanOfBit_chanSel (ch : TcChan) :
    chanOfBit (((0 : BitVec 3) ++ BitVec.ofBool (chanBit ch)).getLsbD 0) = ch := by
  cases ch <;> rfl

theorem extractLsb'_zero_append (a : Byte) : ((0 : Byte) ++ a : Half).extractLsb' 0 8 = a := by
  refine BitVec.eq_of_getLsbD_eq fun k hk => ?_
  rw [BitVec.getLsbD_extractLsb', zero_add, getLsbD_append_low _ _ hk]
  simp [hk]

/-- A core instruction is one word, and its port decodes that word to the instruction. -/
theorem decode_encode_of_core {i : Instr} (hexp : i.expansion = [i]) : (encode i).map (decode i.port) = [.ok i] := by
  open Laws.TableRow in
  cases i with
  | init => exact decodeCmd_encode init rfl rfl rfl rfl
  | submitRx ch => exact decodeCmd_encode (submitRx ch) rfl rfl rfl (by simp)
  | submitTx ch a c =>
    exact decodeCmd_encode (submitTx ch a c) rfl rfl rfl
      (by simp only [immField_cmdWord, flgField_cmdWord, flgBits_getLsbD])
  | submitNoop => exact decodeCmd_encode submitNoop rfl rfl rfl rfl
  | stopAll g => exact decodeCmd_encode (stopAll g) rfl rfl rfl (by simp only [flgField_cmdWord, flgBits_getLsbD])
  | updateTxPower v => exact decodeCmd_encode (updateTxPower v) rfl rfl rfl (by simp)
  | setupTc ch cb =>
    exact decodeCmd_encode (setupTc ch cb) rfl rfl rfl
      (by simp only [immField_cmdWord, selField_cmdWord, chanOfBit_chanSel])
  | dcRecord => exact decodeCmd_encode dcRecord rfl rfl rfl rfl
  | dcCheck => exact decodeCmd_encode dcCheck rfl rfl rfl rfl
  | dcAdvance => exact decodeCmd_encode dcAdvance rfl rfl rfl rfl
  | setRole p b => exact decodeCmd_encode (setRole p b) rfl rfl rfl (by simp only [flgField_cmdWord, flgBits_getLsbD])
  | backoffReq sel => exact decodeCmd_encode (backoffReq sel) rfl rfl rfl (by simp)
  | setPan p => exact decodeCmd_encode (setPan p) rfl rfl rfl (by simp)
  | setShort a => exact decodeCmd_encode (setShort a) rfl rfl rfl (by simp)
  | setExt => exact decodeCmd_encode setExt rfl rfl rfl rfl
  | setFilterMode a p e f =>
    exact decodeCmd_encode (setFilterMode a p e f) rfl rfl rfl
      (by simp only [immField_cmdWord, flgField_cmdWord, flgBits_getLsbD, extractLsb'_zero_append])
  | evtPreamble h l => exact decodeEvt_encode rfl rfl (eventInstr_evtPreamble h l)
  | evtFrameOk h l => exact decodeEvt_encode rfl rfl (eventInstr_evtFrameOk h l)
  | evtBadCrc h l => exact decodeEvt_encode rfl rfl (eventInstr_evtBadCrc h l)
  | evtBufFull h l => exact decodeEvt_encode rfl rfl (eventInstr_evtBufFull h l)
  | evtCmdDone h l => exact decodeEvt_encode rfl rfl (eventInstr_evtCmdDone h l)
  | evtCmdStopped h l => exact decodeEvt_encode rfl rfl (eventInstr_evtCmdStopped h l)
  | evtCmdPreempted h l => exact decodeEvt_encode rfl rfl (eventInstr_evtCmdPreempted h l)
  | evtTcFired h => exact decodeEvt_encode rfl rfl (eventInstr_evtTcFired h)
  | backoffCancel | stopNow | stopGraceful | tcRearm | setAddr | promiscOn => cases hexp

/-- An instruction's words are those of the core instructions it stands for (R201). -/
theorem encode_eq_flatMap_expansion (i : Instr) : encode i = i.expansion.flatMap encode := by
  cases i
  case backoffCancel | stopNow | stopGraceful | tcRearm | setAddr | promiscOn => rfl
  all_goals exact (List.flatMap_singleton _ _).symm

/-- An instruction stands for core instructions of its own port (R201). -/
theorem core_of_mem_expansion (i : Instr) : ∀ j ∈ i.expansion, j.port = i.port ∧ j.expansion = [j] := by
  cases i
  case setAddr p a e =>
    exact List.forall_mem_cons.mpr ⟨⟨rfl, rfl⟩, List.forall_mem_cons.mpr
      ⟨⟨rfl, rfl⟩, List.forall_mem_singleton.mpr ⟨rfl, rfl⟩⟩⟩
  all_goals exact List.forall_mem_singleton.mpr ⟨rfl, rfl⟩

/-- Settles O1: an instruction's words are those of its expansion, whose instructions decode each to itself
(`decode_encode_of_core`). -/
theorem decodeOfEncode : Obligations.DecodeOfEncode := by
  intro i
  have hcore : ∀ j ∈ i.expansion, (encode j).map (decode i.port) = [.ok j] := fun j hj => by
    obtain ⟨hport, hexp⟩ := core_of_mem_expansion i j hj
    rw [← hport, decode_encode_of_core hexp]
  rw [encode_eq_flatMap_expansion, List.map_flatMap, List.flatMap_congr hcore]
  exact List.flatMap_pure_eq_map _ _

/-! ## Encoding what the decoder reads (O2) -/

/-- A word that holds an opcode and no reserved bit is made of that opcode and its free fields. -/
theorem cmdWord_eq_of_matches {w : Word} {o : Byte} {sel flg : BitVec 4} {imm : Half} (selMask flgMask : BitVec 4)
    (immMask : Half) (hw : w &&& cmdWord 0xFF selMask flgMask immMask = cmdWord o 0 0 0)
    (hsel : selField w &&& selMask = 0 → sel = selField w) (hflg : flgField w &&& flgMask = 0 → flg = flgField w)
    (himm : immField w &&& immMask = 0 → imm = immField w) : [cmdWord o sel flg imm] = [w] := by
  have hall : (0xFF : Byte) = BitVec.allOnes 8 := rfl
  rw [← cmdWord_fields w, cmdWord_and, cmdWord_inj, hall, BitVec.and_allOnes] at hw
  obtain ⟨rfl, hs, hf, hi⟩ := hw
  rw [hsel hs, hflg hf, himm hi, cmdWord_fields]

theorem eq_zero_of_and_allOnes {n : Nat} (x : BitVec n) (h : x &&& BitVec.allOnes n = 0) : 0 = x := by
  rw [← h, BitVec.and_allOnes]

/-- A FLG field whose reserved bits are zero is made of its free bits (R154). -/
theorem flgBits_of_masked : (∀ f : BitVec 4, f &&& 0xE = 0 → flgBits (f.getLsbD 0) false false = f) ∧
    (∀ f : BitVec 4, f &&& 0xC = 0 → flgBits (f.getLsbD 0) (f.getLsbD 1) false = f) ∧
    ∀ f : BitVec 4, f &&& 0x8 = 0 → flgBits (f.getLsbD 0) (f.getLsbD 1) (f.getLsbD 2) = f := by decide

/-- A SEL field whose bits 3:1 are zero is made of its channel bit (R154). -/
theorem chanSel_of_masked : ∀ x : BitVec 4, x &&& 0xE = 0 →
    (0 : BitVec 3) ++ BitVec.ofBool (chanBit (chanOfBit (x.getLsbD 0))) = x := by decide

/-- An IMM field whose bits 15:8 are zero is made of its low byte (R154). -/
theorem allow_of_masked (x : Half) (h : x &&& 0xFF00 = 0) : (0 : Byte) ++ x.extractLsb' 0 8 = x := by
  refine BitVec.eq_of_getLsbD_eq fun k hk => ?_
  by_cases hlow : k < 8
  · rw [getLsbD_append_low _ _ hlow]
    simp [hlow]
  · have hmask : ∀ k < 16, ¬k < 8 → (0xFF00 : Half).getLsbD k = true := by decide
    have hbit : (x &&& 0xFF00).getLsbD k = false := by rw [h]; exact BitVec.getLsbD_zero
    rw [BitVec.getLsbD_and, hmask k hk hlow, Bool.and_true] at hbit
    rw [hbit, BitVec.getLsbD_append]
    simp [hlow]

/-- A command word is the encoding of what it decodes to: its reserved bits are zero, and its free bits are the
operands' (R154, R155). -/
theorem encode_of_decodeCmd {w : Word} {i : Instr} (h : decodeCmd w = .ok i) : encode i = [w] := by
  obtain ⟨r, hr, hw, rfl⟩ := (decodeCmd_ok_iff_exists_row w i).mp h
  simp only [cmdTable, List.mem_append, List.mem_cons, List.not_mem_nil, or_false, or_assoc] at hr
  obtain ⟨hflag, hflags, hfilter⟩ := flgBits_of_masked
  have zero4 (x : BitVec 4) (hx : x &&& 0xF = 0) : 0 = x := eq_zero_of_and_allOnes x hx
  have zero16 (x : Half) (hx : x &&& 0xFFFF = 0) : 0 = x := eq_zero_of_and_allOnes x hx
  have free {n : Nat} (x : BitVec n) (_ : x &&& 0 = 0) : x = x := rfl
  rcases hr with rfl | rfl | rfl | rfl | rfl | rfl | rfl | rfl | rfl | rfl | rfl | rfl | rfl | rfl | rfl | rfl
  · exact cmdWord_eq_of_matches 0xF 0xF 0xFFFF hw (zero4 _) (zero4 _) (zero16 _)
  · exact cmdWord_eq_of_matches 0xF 0xF 0 hw (zero4 _) (zero4 _) (free _)
  · exact cmdWord_eq_of_matches 0xF 0xC 0 hw (zero4 _) (hflags _) (free _)
  · exact cmdWord_eq_of_matches 0xF 0xF 0xFFFF hw (zero4 _) (zero4 _) (zero16 _)
  · exact cmdWord_eq_of_matches 0xF 0xE 0xFFFF hw (zero4 _) (hflag _) (zero16 _)
  · exact cmdWord_eq_of_matches 0xF 0xF 0 hw (zero4 _) (zero4 _) (free _)
  · exact cmdWord_eq_of_matches 0xE 0xF 0 hw (chanSel_of_masked _) (zero4 _) (free _)
  · exact cmdWord_eq_of_matches 0xF 0xF 0xFFFF hw (zero4 _) (zero4 _) (zero16 _)
  · exact cmdWord_eq_of_matches 0xF 0xF 0xFFFF hw (zero4 _) (zero4 _) (zero16 _)
  · exact cmdWord_eq_of_matches 0xF 0xF 0xFFFF hw (zero4 _) (zero4 _) (zero16 _)
  · exact cmdWord_eq_of_matches 0xF 0xC 0xFFFF hw (zero4 _) (hflags _) (zero16 _)
  · exact cmdWord_eq_of_matches 0 0xF 0xFFFF hw (free _) (zero4 _) (zero16 _)
  · exact cmdWord_eq_of_matches 0xF 0xF 0 hw (zero4 _) (zero4 _) (free _)
  · exact cmdWord_eq_of_matches 0xF 0xF 0 hw (zero4 _) (zero4 _) (free _)
  · exact cmdWord_eq_of_matches 0xF 0xF 0xFFFF hw (zero4 _) (zero4 _) (zero16 _)
  · exact cmdWord_eq_of_matches 0xF 0x8 0xFF00 hw (zero4 _) (hfilter _) (allow_of_masked _)

/-- A vector whose lowest set bit is bit n is its higher bits before that one. -/
theorem extractLsb'_append_twoPow {a n : Nat} {b : BitVec (a + (n + 1))} (hlow : ∀ k < n, b.getLsbD k = false)
    (hset : b.getLsbD n = true) : b.extractLsb' (n + 1) a ++ BitVec.twoPow (n + 1) n = b := by
  refine BitVec.eq_of_getLsbD_eq fun k hk => ?_
  rw [BitVec.getLsbD_append, BitVec.getLsbD_twoPow]
  split_ifs with hle
  · obtain hlt | rfl : k < n ∨ k = n := by omega
    · simp [hlow k hlt, hlt.ne']
    · simp [hset]
  · rw [BitVec.getLsbD_extractLsb', Nat.add_sub_cancel' (by omega)]
    simp [show k - (n + 1) < a by omega]

/-- The instruction an event field names holds the field's bits: the lowest one and the later ones (R160, R161). -/
theorem eventBits_of_eventInstr {h b : Byte} {i : Instr} (hi : eventInstr h b = some i) : i.eventBits = b := by
  unfold eventInstr at hi
  split_ifs at hi with h0 h1 h2 h3 h4 h5 h6 h7 <;> obtain rfl := Option.some.inj hi
  rotate_right
  · have hb : b.extractLsb' 8 0 ++ BitVec.twoPow 8 7 = b :=
      extractLsb'_append_twoPow (fun k hk => by interval_cases k <;> exact Bool.eq_false_iff.mpr ‹_›) h7
    rwa [BitVec.eq_nil (b.extractLsb' 8 0)] at hb
  all_goals
    refine extractLsb'_append_twoPow (fun k hk => ?_) ‹_›
    interval_cases k <;> exact Bool.eq_false_iff.mpr ‹_›

/-- An event instruction is the word of its handle and its bits, and stands for itself (R160, R201). -/
theorem eventInstr_eq_some {h b : Byte} {i : Instr} (hi : eventInstr h b = some i) :
    encode i = [evtWord h i.eventBits] ∧ i.expansion = [i] := by
  unfold eventInstr at hi
  split_ifs at hi <;> obtain rfl := Option.some.inj hi <;> exact ⟨rfl, rfl⟩

/-- An event word decodes when bits 31:16 are zero, to the instruction its bits name (R161). -/
theorem decodeEvt_ok_iff (w : Word) (i : Instr) :
    decodeEvt w = .ok i ↔ evtReservedField w = 0 ∧ eventInstr (handleField w) (eventField w) = some i := by
  unfold decodeEvt
  split_ifs with hreserved
  · exact iff_of_false nofun fun h => hreserved h.1
  · rw [not_not] at hreserved
    cases eventInstr (handleField w) (eventField w) <;> simp [hreserved]

/-- An event word is the encoding of what it decodes to (R161). -/
theorem encode_of_decodeEvt {w : Word} {i : Instr} (h : decodeEvt w = .ok i) :
    encode i = [w] ∧ i.expansion = [i] := by
  obtain ⟨hreserved, hi⟩ := (decodeEvt_ok_iff w i).mp h
  obtain ⟨hword, hexp⟩ := eventInstr_eq_some hi
  rw [hword, eventBits_of_eventInstr hi, evtWord_fields hreserved]
  exact ⟨rfl, hexp⟩

/-- Settles O2: a word that decodes is its fields, and the decoder's row or event bits hold them all
(`encode_of_decodeCmd`, `encode_of_decodeEvt`). -/
theorem encodeOfDecode : Obligations.EncodeOfDecode := by
  intro p w i h
  cases p with
  | cmd =>
    obtain ⟨hport, hexp⟩ := port_expansion_of_decodeCmd h
    exact ⟨encode_of_decodeCmd h, hport, hexp⟩
  | evt =>
    obtain ⟨hword, hexp⟩ := encode_of_decodeEvt h
    exact ⟨hword, port_of_decodeEvt h, hexp⟩

/-! ## The spec's own examples (O4) -/

/-- Settles O4: fifteen closed words, each decoded by the table. -/
theorem sampleWords : Obligations.SampleWords := by
  refine ⟨?_, ?_, ?_, ?_, ?_, ?_, ?_, ?_, ?_, ?_, ?_, ?_, ?_, ?_, ?_⟩ <;> decide

end Sys2Proof.Machine
end

section
/-!
PROOFS. O6, O7: what the two ports do with a word (30_encoding.md R155, R161). A word of CMD faults, answers
ILLEGAL_OP or runs its command; an event word runs its bits one after the other.
-/

namespace Sys2Proof.Machine

/-! ## The command port (O6) -/

/-- A host write of CMD is the command port's (R151). -/
theorem step_cmd {s : State} {w : Word} {rest : List Move} (hc : s.cfg.admitted = true)
    (hs : s.sched = .regWrite 4 0x000 w :: rest) : step s = cmdWrite w { s with sched := rest } :=
  step_write hc hs ⟨by decide, .inl (by decide)⟩

/-- INIT is the one command of OPC 0x01 (R153). -/
theorem opcField_of_decodeCmd_init {w : Word} (h : decodeCmd w = .ok .init) : opcField w = 0x01 := by
  rw [← List.singleton_inj.mp (encode_of_decodeCmd h), opcField_cmdWord]

/-- Before INIT a word of any other opcode records UNINIT, whether it decodes or not (R155; 00_scope.md R12). -/
theorem cmdWrite_uninit {w : Word} {s : State} (hi : s.init = false) (hopc : opcField w ≠ 0x01) :
    cmdWrite w s = .next s.withUninit := by
  unfold cmdWrite
  cases hd : decodeCmd w with
  | error e => simp only [State.illegalCmd, if_pos (And.intro hi hopc), State.raiseFault_uninit]
  | ok i =>
    obtain ⟨hport, hexp⟩ := port_expansion_of_decodeCmd hd
    have hinit : i ≠ .init := fun e => hopc (opcField_of_decodeCmd_init (e ▸ hd))
    exact (guards.1 i hport hexp hinit s).1 hi

/-- Else a word that is no command answers ILLEGAL_OP (R155). -/
theorem cmdWrite_illegal {w : Word} {s : State} {e : DecodeError} (hd : decodeCmd w = .error e)
    (hrun : s.init = true ∨ opcField w = 0x01) : cmdWrite w s = .next { s with res := 0x00000007 } := by
  have hlegal : ¬(s.init = false ∧ opcField w ≠ 0x01) := by
    rintro ⟨hi, hopc⟩
    exact hrun.elim (by simp [hi]) hopc
  simp only [cmdWrite, hd, State.illegalCmd, if_neg hlegal]
  rfl

/-- Settles O6: UNINIT comes first (`cmdWrite_uninit`), then the decoder's answer. -/
theorem commandWord : Obligations.CommandWord := by
  intro s w rest hc hs u
  rw [step_cmd hc hs]
  exact ⟨cmdWrite_uninit, fun hrun => ⟨fun e hd => cmdWrite_illegal hd hrun, fun i hd => by rw [cmdWrite, hd]⟩⟩

/-! ## The event port (O7) -/

/-- An event field names no instruction exactly when no event bit is set (R161). -/
theorem eventInstr_eq_none_iff (h b : Byte) : eventInstr h b = none ↔ b = 0 := by
  constructor
  · intro hnone
    unfold eventInstr at hnone
    split_ifs at hnone
    refine BitVec.eq_of_getLsbD_eq fun k hk => ?_
    interval_cases k <;> exact Bool.eq_false_iff.mpr ‹_›
  · rintro rfl
    rfl

/-- The instruction an event field names is the delivery of that field (R161). -/
theorem exec_eventInstr {h b : Byte} {i : Instr} (hi : eventInstr h b = some i) (s : State) :
    exec i s = .next (s.deliverEvent h b) := by
  have hexec : exec i s = .next (s.deliverEvent h i.eventBits) := by
    unfold eventInstr at hi
    split_ifs at hi <;> obtain rfl := Option.some.inj hi <;> rfl
  rw [hexec, eventBits_of_eventInstr hi]

/-- A word with a reserved bit set, or with no event bit, is no event (R161). -/
theorem eventWord_bad {w : Word} (h : evtReservedField w ≠ 0 ∨ eventField w = 0) (s : State) :
    eventWord w s = .next s.badEventWord := by
  unfold eventWord
  cases hd : decodeEvt w with
  | error e => rfl
  | ok i =>
    obtain ⟨hreserved, hi⟩ := (decodeEvt_ok_iff w i).mp hd
    have hsome := (eventInstr_eq_none_iff (handleField w) (eventField w)).mpr (h.resolve_left (not_not.mpr hreserved))
    cases hsome.symm.trans hi

/-- Any other word is the delivery of its event field to its handle (R161). -/
theorem eventWord_deliver {w : Word} (hreserved : evtReservedField w = 0) (hbits : eventField w ≠ 0) (s : State) :
    eventWord w s = .next (s.deliverEvent (handleField w) (eventField w)) := by
  obtain ⟨i, hi⟩ := Option.ne_none_iff_exists'.mp (mt (eventInstr_eq_none_iff (handleField w) _).mp hbits)
  rw [eventWord, (decodeEvt_ok_iff w i).mpr ⟨hreserved, hi⟩]
  exact exec_eventInstr hi s

/-- Every event word runs under guardEvt (00_scope.md R12). -/
theorem eventWord_guardEvt (w : Word) (s : State) : ∃ body, eventWord w s = .next (s.guardEvt body) := by
  by_cases h : evtReservedField w ≠ 0 ∨ eventField w = 0
  · exact ⟨_, eventWord_bad h s⟩
  · obtain ⟨hreserved, hbits⟩ := not_or.mp h
    exact ⟨_, eventWord_deliver (not_not.mp hreserved) hbits s⟩

/-- The slot of a handle is the one the handle numbers (R161). -/
theorem num_of_slotOfNum {n : Nat} {x : Slot} (h : slotOfNum n = some x) : n = x.num := by
  unfold slotOfNum at h
  split at h <;> cases h <;> rfl

theorem slotOfNum_of_nine_lt {n : Nat} (h : 9 < n) : slotOfNum n = none := by
  refine Option.eq_none_iff_forall_ne_some.mpr fun x hx => ?_
  have hle : x.num ≤ 9 := by cases x <;> decide
  have hnum := num_of_slotOfNum hx
  omega

section
variable {s : State} {h : Byte} {x : Slot} (hr : s.ready) (hx : slotOfNum h.toNat = some x)
include hr hx

theorem State.deliverEvent_slot (bits : Byte) : s.deliverEvent h bits = s.eventBits x bits := by
  rw [State.deliverEvent, State.guardEvt_ready hr.1 hr.2, hx]

/-- The event word of one bit runs that bit (R161). -/
theorem exec_oneBitEvent {b : Nat} (hb : b < 8) : exec (oneBitEvent h b) s = .next (s.eventBit x b) := by
  have hdeliver : exec (oneBitEvent h b) s = .next (s.deliverEvent h (BitVec.twoPow 8 b)) := by
    interval_cases b <;> rfl
  have hbit : s.eventBits x (BitVec.twoPow 8 b) = s.eventBit x b := by
    interval_cases b <;> rfl
  rw [hdeliver, State.deliverEvent_slot hr hx, hbit]

/-- One-bit event words run in a list are the bits run in that order, each on what the ones before it left (R161). -/
theorem execAll_oneBitEvents (p : Nat → Bool) (l : List Nat) (hl : ∀ b ∈ l, b < 8) :
    execAll ((l.filter p).map (oneBitEvent h)) s =
      .next (l.foldl (fun s b => if p b then s.eventBit x b else s) s) := by
  induction l generalizing s with
  | nil => rfl
  | cons b l ih =>
    obtain ⟨hb, hrest⟩ := List.forall_mem_cons.mp hl
    rw [List.foldl_cons, List.filter_cons]
    split_ifs
    · have hready : (s.eventBit x b).ready := by simpa [State.ready] using hr
      rw [List.map_cons, execAll, exec_oneBitEvent hr hx hb]
      exact ih hready hrest
    · exact ih hr hrest

end

theorem getLsbD_eventField (w : Word) {b : Nat} (hb : b < 8) : (eventField w).getLsbD b = w.getLsbD (8 + b) := by
  simp [eventField, hb]

/-- The masks of R189, slot by slot. -/
theorem eventMask_of_slotOfNum {h : Byte} {x : Slot} (hx : slotOfNum h.toNat = some x) :
    x.eventMask = if h = 2 then (0x7F : Byte) else if h = 5 ∨ h = 6 ∨ h = 7 then 0x70
      else if h = 8 ∨ h = 9 then 0x80 else 0x00 := by
  obtain rfl : h = handleOf x := by rw [handleOf, ← num_of_slotOfNum hx, BitVec.ofNat_toNat, BitVec.setWidth_eq]
  cases x <;> rfl

section
variable {w : Word} {s : State} (hr : s.ready)
include hr

/-- A word with a reserved bit, with a handle above 9 or with no event bit is only counted (R161). -/
theorem eventWord_countOnly (h : evtReservedField w ≠ 0 ∨ 9 < (handleField w).toNat ∨ eventField w = 0) :
    eventWord w s = .next (s.count .unexpectedEvent) := by
  by_cases hbad : evtReservedField w ≠ 0 ∨ eventField w = 0
  · rw [eventWord_bad hbad, State.badEventWord, State.guardEvt_ready hr.1 hr.2]
  · obtain ⟨hreserved, hbits⟩ := not_or.mp hbad
    have hhandle : 9 < (handleField w).toNat := by tauto
    rw [eventWord_deliver (not_not.mp hreserved) hbits, State.deliverEvent, State.guardEvt_ready hr.1 hr.2,
      slotOfNum_of_nine_lt hhandle]

/-- Any other word runs its event bits in ascending order (R161). -/
theorem eventWord_bits (hreserved : evtReservedField w = 0) (hhandle : (handleField w).toNat ≤ 9)
    (hbits : eventField w ≠ 0) : eventWord w s =
      execAll (((List.range 8).filter fun b => w.getLsbD (8 + b)).map (oneBitEvent (handleField w))) s := by
  obtain ⟨x, hx⟩ := exists_slotOfNum (n := (handleField w).toNat) (by omega)
  have hfield : ((List.range 8).filter fun b => w.getLsbD (8 + b)) = (List.range 8).filter (eventField w).getLsbD :=
    List.filter_congr fun b hb => (getLsbD_eventField w (List.mem_range.mp hb)).symm
  rw [eventWord_deliver hreserved hbits, State.deliverEvent_slot hr hx, hfield,
    execAll_oneBitEvents hr hx _ _ fun b => List.mem_range.mp]
  rfl

end

/-- Settles O7: the guard is the port's (`eventWord_guardEvt`), and past it a word is only counted
(`eventWord_countOnly`) or runs its bits (`eventWord_bits`), each under its handle's mask (`exec_oneBitEvent`). -/
theorem eventWord_holds : Obligations.EventWord := by
  constructor
  · intro s w rest hc hs u h
    rw [show step s = eventWord w u from step_of_sched hc hs]
    obtain ⟨body, hguard⟩ := eventWord_guardEvt w u
    refine ⟨fun hi => ?_, fun hi hf => ?_, eventWord_countOnly, eventWord_bits⟩
    · rw [hguard, State.guardEvt_uninit hi, State.raiseFault_uninit]
    · rw [hguard, State.guardEvt_fatal hi hf]
  · intro s h b hr hh hb hmask
    obtain ⟨x, hx⟩ := exists_slotOfNum (n := h.toNat) (by omega)
    rw [exec_oneBitEvent hr hx hb, State.eventBit, eventMask_of_slotOfNum hx, hmask]
    rfl

end Sys2Proof.Machine
end

section
/-!
PROOFS. O11: SUBMIT_RX (40_scheduler.md R231 to R234).
-/

namespace Sys2Proof.Machine

theorem State.result_ok (s : State) : s.result .ok = { s with res := 0x00000000 } := rfl

theorem State.result_rejected (s : State) : s.result .rejected = { s with res := 0x00000004 } := rfl

theorem State.needFs_eq_true (s : State) (ch : Half) :
    s.needFs ch = true ↔ s.progValid = false ∨ s.progChannel ≠ ch := by
  simp [State.needFs]

/-- The head of chainRx(ch) (R231). -/
theorem State.rxChain_head (s : State) (ch : Half) :
    (s.rxChain ch).headD .rx = if s.progValid = false ∨ s.progChannel ≠ ch then .fsRx else .rx := by
  unfold State.rxChain
  simp only [← State.needFs_eq_true]
  split_ifs <;> rfl

/-- chainRx(ch) changes the arena alone (R231). -/
theorem State.chainRx_eq (s : State) (ch : Half) : s.chainRx ch = { s with desc := s.rxArena ch } := by
  unfold State.chainRx State.rxChain State.rxArena
  simp only [← State.needFs_eq_true]
  split_ifs <;> rfl

/-- The slots an accepted chainRx(ch) puts in flight (R232). -/
theorem State.setAll_rxChain (s : State) (ch : Half) : s.inflight.setAll true (s.rxChain ch) = { s.inflight with
    fsRx := s.inflight.fsRx || (!s.progValid || decide (s.progChannel ≠ ch))
    rx := true } := by
  change _ = { s.inflight with fsRx := s.inflight.fsRx || s.needFs ch, rx := true }
  unfold State.rxChain
  cases s.needFs ch <;> simp [PerSlot.setAll, PerSlot.set]

/-- submit() sends the message and takes the radio's answer off the draws (R232). -/
theorem State.submit_eq (s : State) (p h : Slot) (st : Option Word) :
    s.submit p h st = (s.drawAccept.1,
      { s with out := s.out ++ [.submit p h p.eventMask st], draws := s.drawAccept.2.draws }) := by
  unfold State.submit State.drawAccept State.emit State.bumpFree
  cases h : s.draws.accept <;> simp [h]

/-- onAccepted(p, m) (R232). -/
theorem State.onAccepted_eq (s : State) (p : Slot) (m : List Slot) : s.onAccepted p m = { s with
    inflight := s.inflight.setAll true m
    out := s.out ++ s.holdVote
    cntTotal := s.cntTotal + 1
    cntRx := if p = .rx then s.cntRx + 1 else s.cntRx } := by
  unfold State.onAccepted State.holdVote
  dsimp only
  by_cases hfirst : s.cntTotal = 0
  · rw [if_pos hfirst, if_pos hfirst]
    rfl
  · rw [if_neg hfirst, if_neg hfirst, List.append_nil]

/-- A request for a backoff of some length arms it (43_backoff_timers.md R430). -/
theorem State.boRequest_of_ne_zero (s : State) (c : OpClass) {d : Word} (hd : d ≠ 0) :
    s.boRequest c d = { s with bo := s.bo.set c ⟨true, d⟩, retryEvt := s.retryEvt.set c false } := if_neg hd

/-- chainRx(ch) submitted: the arena, the message and the radio's answer (R231, R232). -/
theorem State.submit_chainRx (s : State) (ch : Half) :
    (s.chainRx ch).submit .rx ((s.rxChain ch).headD .rx) none = (s.drawAccept.1,
      { s with desc := s.rxArena ch, out := s.out ++ [s.rxSubmit ch], draws := s.drawAccept.2.draws }) := by
  obtain ⟨hanswer, hdraws⟩ := State.drawAccept_congr (s := s) (t := { s with desc := s.rxArena ch }) rfl
  rw [State.chainRx_eq, State.submit_eq, State.rxChain_head, hanswer, hdraws]
  rfl

/-- doSubmitRx(ch), the radio accepting (R234). -/
theorem State.doSubmitRx_accepted {s : State} {ch : Half} (h : s.drawAccept.1 = true) :
    s.doSubmitRx ch = (.ok, s.rxAccepted ch) := by
  rw [State.doSubmitRx_eq, State.submit_chainRx]
  dsimp only
  rw [if_pos h, State.onAccepted_eq, State.rxAccepted, ← State.setAll_rxChain]
  rfl

/-- doSubmitRx(ch), the radio rejecting (R234). -/
theorem State.doSubmitRx_rejected {s : State} {ch : Half} (hdelay : s.cfg.rxBoDelay ≠ 0)
    (h : s.drawAccept.1 = false) :
    s.doSubmitRx ch = (.rejected, s.rxRejected ch) := by
  rw [State.doSubmitRx_eq, State.submit_chainRx]
  dsimp only
  rw [if_neg (Bool.eq_false_iff.mp h), State.boRequest_of_ne_zero _ _ hdelay]
  rfl

/-- SUBMIT_RX past its guard (R233). -/
theorem exec_submitRx {s : State} (hr : s.ready) (ch : Half) : exec (.submitRx ch) s = .next
    (if s.cfg.nChannels ≤ ch.toNat then { s with res := 0x00000006 }
    else if s.rxState.midDecode then { s with res := 0x00000003 }
    else if s.inflight.rx then { s with res := 0x00000002 }
    else submitResult (s.doSubmitRx ch)) := by
  change Host.Outcome.next (s.guardCmd _) = _
  rw [State.guardCmd_ready hr.1 hr.2]
  rfl

/-- Settles O11: the checks in their order (`exec_submitRx`), then the radio's answer (`State.doSubmitRx_accepted`,
`State.doSubmitRx_rejected`). -/
theorem submitReceive : Obligations.SubmitReceive := by
  intro ch
  refine ⟨guards.1 (.submitRx ch) rfl rfl nofun, fun s hc hr => ?_⟩
  have hdelay : s.cfg.rxBoDelay ≠ 0 := by
    simp only [Config.admitted, decide_eq_true_eq] at hc
    exact ne_zero_of_one_le (by omega)
  rw [exec_submitRx hr]
  refine ⟨fun hch => ?_, fun hch hdec => ?_, fun hch hdec hrx => ?_, fun hch hdec hrx hans => ?_,
    fun hch hdec hrx hans => ?_⟩
  · rw [if_pos hch]
  · rw [if_neg (by omega), if_pos hdec]
  · rw [if_neg (by omega), if_neg (by simp [hdec]), if_pos hrx]
  · rw [if_neg (by omega), if_neg (by simp [hdec]), if_neg (by simp [hrx]), State.doSubmitRx_accepted hans]
    exact congrArg _ (State.result_ok _)
  · rw [if_neg (by omega), if_neg (by simp [hdec]), if_neg (by simp [hrx]), State.doSubmitRx_rejected hdelay hans]
    exact congrArg _ (State.result_rejected _)

end Sys2Proof.Machine
end

section
/-!
PROOFS. O41: the end of a frame that is not discarded (41_rx_frame_fsm.md R302, R351, R354).
-/

namespace Sys2Proof.Machine

/-- The common end of a frame: it is released, its entry flushed and the machine IDLE (R302, R351, R354). -/
theorem State.finishFrame_eq (s : State) : s.finishFrame = { s with
    pf := { s.pf with valid := false }
    ring := s.ring.set s.curEntry.toNat ⟨.pending, 0⟩
    rdIdx := if s.rdIdx = s.curEntry then BitVec.ofNat 4 ((s.curEntry.toNat + 1) % s.cfg.ringN) else s.rdIdx
    out := s.out ++ [.flushEntry s.curEntry]
    rxState := .idle } := by
  unfold State.finishFrame State.flushEntry State.setEntry State.releasePf State.emit
  dsimp only
  split_ifs <;> rfl

/-- Settles O41: both ends are `State.finishFrame_eq` behind their message, and the record of a delivery is R194's. -/
theorem consumeAndDeliver : Obligations.ConsumeAndDeliver := by
  intro s closed matched
  have hmatched : matched ↔ (s.ackWait && s.pf.seqPresent && decide (s.pf.seq = s.ackWaitSeq)) = true := by
    simp [matched, and_assoc]
  refine ⟨fun hm => ?_, fun hm => ?_, ?_⟩
  · rw [State.ackConsume, if_pos (hmatched.mp hm), State.finishFrame_eq]
    rfl
  · rw [State.ackConsume, if_neg (mt hmatched.mpr hm)]
  · rw [State.deliver, State.finishFrame_eq]
    rfl

end Sys2Proof.Machine
end

section
/-!
PROOFS. O22: the pseudo-instructions (30_encoding.md R200, R201). Each is its expansion's register writes, one after the
other, and its effect is the effect of the commands it stands for.
-/

namespace Sys2Proof.Machine

/-! ## The writes of an expansion -/

theorem run_succ {M : Host.Core} {s t : M.State} (h : M.step s = .next t) (n : Nat) : M.run (n + 1) s = M.run n t := by
  rw [Host.Core.run, h]

/-- A scheduled move that completes goes on with the moves after it. -/
theorem run_move {s t : State} {m : Move} {l : List Move} (n : Nat) (hc : s.cfg.admitted = true)
    (hs : s.sched = m :: l) (hm : runMove m { s with sched := l } = .next t) :
    Host.Core.run core (n + 1) s = Host.Core.run core n t :=
  run_succ (M := core) ((step_of_sched hc hs).trans hm) n

/-- A host write of ARG0 (20_memory.md R105). -/
theorem runMove_arg0 (v : Word) (s : State) : runMove (.regWrite 4 0x004 v) s = .next (s.writeArg0 v) := rfl

/-- A host write of ARG1 (R105). -/
theorem runMove_arg1 (v : Word) (s : State) : runMove (.regWrite 4 0x008 v) s = .next (s.writeArg1 v) := rfl

/-- A host write of a core command's word runs the command (R151). -/
theorem runMove_encode {i : Instr} {w : Word} (hport : i.port = .cmd) (hexp : i.expansion = [i]) (hw : encode i = [w])
    (s : State) : runMove (.regWrite 4 0x000 w) s = exec i s := by
  have hdecode := decode_encode_of_core hexp
  rw [hport, hw, List.map_singleton, List.singleton_inj] at hdecode
  exact runMove_cmd hdecode s

/-- What a guarded command does to the rest of the machine does not depend on the moves still to come (log entry 7). -/
theorem State.guardCmd_sched {body : State → State}
    (hbody : ∀ (s : State) l, body { s with sched := l } = { body s with sched := l }) (s : State) (l : List Move) :
    State.guardCmd { s with sched := l } body = { s.guardCmd body with sched := l } := by
  unfold State.guardCmd
  dsimp only
  split_ifs
  · rw [State.raiseFault_uninit, State.raiseFault_uninit]
    rfl
  · rfl
  · exact hbody s l

theorem cmdSetPan_sched (pan : Half) (s : State) (l : List Move) :
    cmdSetPan pan { s with sched := l } = { cmdSetPan pan s with sched := l } :=
  State.guardCmd_sched (fun _ _ => rfl) s l

theorem cmdSetShort_sched (addr : Half) (s : State) (l : List Move) :
    cmdSetShort addr { s with sched := l } = { cmdSetShort addr s with sched := l } :=
  State.guardCmd_sched (fun _ _ => rfl) s l

theorem cfg_sched_of_quietView {s t : State} (h : t.quietView = s.quietView) : t.cfg = s.cfg ∧ t.sched = s.sched := by
  simp only [State.quietView, State.commandView, State.modelView, Prod.mk.injEq] at h
  obtain ⟨⟨⟨hcfg, hsched, -⟩, -⟩, -⟩ := h
  exact ⟨hcfg, hsched⟩

/-- The five writes of SET_ADDR (R201). -/
theorem run_setAddr {u : State} (hc : u.cfg.admitted = true) (pan addr : Half) (ext : DWord) :
    Host.Core.run core 5 { u with sched := pseudoMoves (.setAddr pan addr ext) ++ u.sched } =
      exec (.setAddr pan addr ext) u := by
  let p := cmdSetPan pan u
  let q := cmdSetShort addr p
  obtain ⟨hcfgp, -⟩ : p.cfg = u.cfg ∧ p.sched = u.sched := cfg_sched_of_quietView (cmdSetPan_quiet pan u)
  obtain ⟨hcfgq, hsched⟩ : q.cfg = u.cfg ∧ q.sched = u.sched :=
    cfg_sched_of_quietView ((cmdSetShort_quiet addr p).trans (cmdSetPan_quiet pan u))
  have hcp : p.cfg.admitted = true := by rw [hcfgp, hc]
  have hcq : q.cfg.admitted = true := by rw [hcfgq, hc]
  have hq : { q with sched := u.sched } = q := by rw [← hsched]
  have hpan (l : List Move) := (runMove_encode (i := .setPan pan) rfl rfl rfl { u with sched := l }).trans
    (congrArg Host.Outcome.next (cmdSetPan_sched pan u l))
  have haddr (l : List Move) := (runMove_encode (i := .setShort addr) rfl rfl rfl { p with sched := l }).trans
    (congrArg Host.Outcome.next (cmdSetShort_sched addr p l))
  refine Eq.trans (run_move 4 hc rfl (hpan _)) (Eq.trans (run_move 3 hcp rfl (haddr _)) ?_)
  refine Eq.trans (run_move 2 hcq rfl (runMove_arg0 _ _)) (Eq.trans (run_move 1 hcq rfl (runMove_arg1 _ _)) ?_)
  refine Eq.trans (run_move 0 hcq rfl (runMove_encode (i := .setExt) rfl rfl rfl _)) ?_
  change Host.Outcome.next (cmdSetExt
    ((State.writeArg0 { q with sched := u.sched } (extLow ext)).writeArg1 (extHigh ext))) = _
  rw [hq]
  rfl

/-- The writes of a pseudo-instruction's expansion do what the pseudo-instruction does (R201, log entry 12). -/
theorem run_pseudoMoves {u : State} (hc : u.cfg.admitted = true) {i : Instr} (hexp : i.expansion ≠ [i]) :
    Host.Core.run core (pseudoMoves i).length { u with sched := pseudoMoves i ++ u.sched } = exec i u := by
  cases i
  case backoffCancel sel =>
    refine Eq.trans (run_move 1 hc rfl (runMove_arg0 _ _)) ?_
    exact run_move 0 hc rfl (runMove_encode (i := .backoffReq sel) rfl rfl rfl _)
  case stopNow => exact run_move 0 hc rfl (runMove_encode (i := .stopAll false) rfl rfl rfl _)
  case stopGraceful => exact run_move 0 hc rfl (runMove_encode (i := .stopAll true) rfl rfl rfl _)
  case promiscOn => exact run_move 0 hc rfl (runMove_encode (i := .setFilterMode 0xFF true false false) rfl rfl rfl _)
  case tcRearm ch cb d =>
    refine Eq.trans (run_move 1 hc rfl (runMove_arg0 _ _)) ?_
    exact run_move 0 hc rfl (runMove_encode (i := .setupTc ch cb) rfl rfl rfl _)
  case setAddr pan addr ext => exact run_setAddr hc pan addr ext
  all_goals exact absurd rfl hexp
/-! ## The effects of the commands they stand for -/

/-- boRequest(c, d) as the rule words it (43_backoff_timers.md R430). -/
theorem State.boRequest_eq (s : State) (c : OpClass) (d : Word) : s.boRequest c d = s.boAsked c d := by
  unfold State.boRequest State.boAsked
  split_ifs <;> rfl

theorem classOfSel_classNumber (c : OpClass) : classOfSel (classNumber c) = some c := by cases c <;> rfl

theorem classOfSel_of_two_lt {sel : BitVec 4} (h : 2 < sel.toNat) : classOfSel sel = none := by
  refine Option.eq_none_iff_forall_ne_some.mpr fun c hc => ?_
  rw [classOfSel_eq hc] at h
  revert h
  cases c <;> decide

section
variable {s : State} (hr : s.ready)
include hr

/-- BACKOFF_REQ of no class (R431). -/
theorem cmdBackoffReq_invalid {sel : BitVec 4} (h : 2 < sel.toNat) :
    cmdBackoffReq sel s = { s with res := 0x00000006 } := by
  rw [cmdBackoffReq, State.guardCmd_ready hr.1 hr.2, classOfSel_of_two_lt h]
  rfl

/-- BACKOFF_REQ of a class (R431). -/
theorem cmdBackoffReq_class (c : OpClass) :
    cmdBackoffReq (classNumber c) s = { s.boAsked c s.arg0 with res := 0x00000000 } := by
  rw [cmdBackoffReq, State.guardCmd_ready hr.1 hr.2, classOfSel_classNumber]
  dsimp only
  rw [State.boRequest_eq, State.result_ok]

/-- STOP_ALL (40_scheduler.md R248). -/
theorem cmdStopAll_ready (graceful : Bool) : cmdStopAll graceful s = { s.stopped graceful with res := 0x00000000 } := by
  rw [cmdStopAll, State.guardCmd_ready hr.1 hr.2, State.result_ok]
  rfl

end

/-- The sample of the radio timer, and what is left of the draws, depend on the draws alone (00_scope.md R9). -/
theorem State.drawRatNow_congr {s t : State} (h : t.draws = s.draws) :
    t.drawRatNow.1 = s.drawRatNow.1 ∧ t.drawRatNow.2.draws = s.drawRatNow.2.draws := by
  unfold State.drawRatNow State.bumpFree
  rw [h]
  split <;> exact ⟨rfl, rfl⟩

theorem State.drawRatNow_snd (s : State) : s.drawRatNow.2 = { s with draws := s.drawRatNow.2.draws } := by
  unfold State.drawRatNow State.bumpFree
  split <;> rfl

@[simp] theorem PerChan.set_set {α : Type} (m : PerChan α) (ch : TcChan) (v w : α) :
    (m.set ch v).set ch w = m.set ch w := by
  cases ch <;> rfl

/-- SETUP_TC (R253). -/
theorem cmdSetupTc_ready {s : State} (hr : s.ready) (ch : TcChan) (cb : Half) :
    cmdSetupTc ch cb s = { s.tcSetUp ch cb s.arg0 with res := 0x00000000 } := by
  obtain ⟨hsample, hdraws⟩ := State.drawRatNow_congr (s := s) (t := s.disarm ch) (by simp)
  rw [cmdSetupTc_eq, State.guardCmd_ready hr.1 hr.2, State.result_ok, State.drawRatNow_snd, hsample, hdraws]
  unfold State.disarm State.tcSetUp
  split_ifs <;> simp [State.armTc, State.emit, State.build, halfParam]

/-- SETUP_TC's effect with another ARG0 in the register. -/
theorem State.tcSetUp_writeArg0 (s : State) (ch : TcChan) (cb : Half) (d : Word) :
    (s.writeArg0 d).tcSetUp ch cb d = { s.tcSetUp ch cb d with arg0 := d } := by
  obtain ⟨hsample, hdraws⟩ := State.drawRatNow_congr (s := s) (t := s.writeArg0 d) rfl
  unfold State.tcSetUp
  rw [hsample, hdraws]
  rfl

/-- TC_REARM: SETUP_TC with the delta in ARG0 (30_encoding.md R201). -/
theorem exec_tcRearm {s : State} (hr : s.ready) (ch : TcChan) (cb : Half) (d : Word) :
    exec (.tcRearm ch cb d) s = .next { s.tcSetUp ch cb d with arg0 := d, res := 0x00000000 } := by
  change Host.Outcome.next (cmdSetupTc ch cb (s.writeArg0 d)) = _
  rw [cmdSetupTc_ready (s := s.writeArg0 d) hr, show (s.writeArg0 d).arg0 = d from rfl, State.tcSetUp_writeArg0]

section
variable {s : State} (hr : s.ready)
include hr

/-- SET_PAN (44_filter_config.md R470). -/
theorem cmdSetPan_ready (pan : Half) : cmdSetPan pan s = { s with fPan := pan, res := 0x00000000 } := by
  rw [cmdSetPan, State.guardCmd_ready hr.1 hr.2]
  rfl

/-- SET_SHORT (R471). -/
theorem cmdSetShort_ready (addr : Half) : cmdSetShort addr s = { s with fShort := addr, res := 0x00000000 } := by
  rw [cmdSetShort, State.guardCmd_ready hr.1 hr.2]
  rfl

/-- SET_EXT (R472). -/
theorem cmdSetExt_ready : cmdSetExt s = { s with fExt := extOfArgs s.arg0 s.arg1, res := 0x00000000 } := by
  rw [cmdSetExt, State.guardCmd_ready hr.1 hr.2]
  rfl

/-- SET_FILTER_MODE (R473). -/
theorem cmdSetFilterMode_ready (allow : Byte) (promisc enhAck ackFp : Bool) :
    cmdSetFilterMode allow promisc enhAck ackFp s = { s with
      fAllow := allow
      fPromisc := promisc
      fEnhAck := enhAck
      fAckFP := ackFp
      res := 0x00000000 } := by
  rw [cmdSetFilterMode, State.guardCmd_ready hr.1 hr.2]
  rfl

end

theorem extLow_eq_ofNat (e : DWord) : extLow e = BitVec.ofNat 32 e.toNat := by
  apply BitVec.eq_of_toNat_eq
  simp [extLow]

theorem extHigh_eq_ofNat (e : DWord) : extHigh e = BitVec.ofNat 32 (e.toNat / 2 ^ 32) := by
  apply BitVec.eq_of_toNat_eq
  simp [extHigh, Nat.shiftRight_eq_div_pow]

/-- An extended address is its two words (R158, R200). -/
theorem extOfArgs_ofNat (e : DWord) :
    extOfArgs (BitVec.ofNat 32 e.toNat) (BitVec.ofNat 32 (e.toNat / 2 ^ 32)) = e := by
  apply BitVec.eq_of_toNat_eq
  have := e.isLt
  rw [extOfArgs, toNat_append_add, BitVec.toNat_ofNat, BitVec.toNat_ofNat]
  omega

/-- SET_ADDR: its three commands, the operands being the words of the extended address (R201). -/
theorem exec_setAddr {s : State} (hr : s.ready) (pan addr : Half) (ext : DWord) :
    exec (.setAddr pan addr ext) s = .next { s with
      fPan := pan
      fShort := addr
      fExt := ext
      arg0 := BitVec.ofNat 32 ext.toNat
      arg1 := BitVec.ofNat 32 (ext.toNat / 2 ^ 32)
      res := 0x00000000 } := by
  change Host.Outcome.next (cmdSetExt (((cmdSetShort addr (cmdSetPan pan s)).writeArg0 (extLow ext)).writeArg1
    (extHigh ext))) = _
  have hrp : State.ready { s with fPan := pan, res := 0x00000000 } := hr
  rw [cmdSetPan_ready hr, cmdSetShort_ready hrp, cmdSetExt_ready]
  · simp only [State.writeArg0, State.writeArg1, extLow_eq_ofNat, extHigh_eq_ofNat, extOfArgs_ofNat]
  · exact hr

/-- Settles O22: the writes run the pseudo-instruction (`run_pseudoMoves`), and its effect is that of its commands. -/
theorem pseudoInstructions : Obligations.PseudoInstructions := by
  refine ⟨fun s i rest hc hexp hs => ?_, fun s hr => ⟨fun sel h => ?_, fun sel c h => ?_, ?_, ?_, exec_tcRearm hr,
    exec_setAddr hr, ?_⟩⟩
  · have hrun := run_pseudoMoves (u := { s with sched := rest }) hc hexp
    rwa [show ({ s with sched := pseudoMoves i ++ rest } : State) = s by rw [← hs]] at hrun
  · exact congrArg Host.Outcome.next (cmdBackoffReq_invalid (s := s.writeArg0 0) hr h)
  · subst h
    exact congrArg Host.Outcome.next (cmdBackoffReq_class (s := s.writeArg0 0) hr c)
  · exact congrArg Host.Outcome.next (cmdStopAll_ready hr false)
  · exact congrArg Host.Outcome.next (cmdStopAll_ready hr true)
  · exact congrArg Host.Outcome.next (cmdSetFilterMode_ready hr 0xFF true false false)

end Sys2Proof.Machine
end

section
/-!
PROOFS. O23: a refused command changes nothing but RES (30_encoding.md R182; 60_exceptions.md R491). Every command
leaves the state it found but for RES, or ends with one of the three codes that are no refusal.
-/

namespace Sys2Proof.Machine

/-- What a command leaves of state `s`: all of it but RES, or an answer OK, DEFERRED or REJECTED (R182, R491). -/
def State.Answers (s t : State) : Prop :=
  t = { s with res := t.res } ∨ ∃ c v, t.res = resWord c v ∧ (c = .ok ∨ c = .deferred ∨ c = .rejected)

/-- The CODE of RES (R182). -/
theorem extractLsb'_resWord (c : ResultCode) (v : Bool) : (resWord c v).extractLsb' 0 8 = c.num := by
  cases c <;> cases v <;> rfl

theorem State.answers_resultV (s : State) (c : ResultCode) (v : Bool) : s.Answers (s.resultV c v) := .inl rfl

theorem State.answers_ok (s u : State) : s.Answers (u.result .ok) := .inr ⟨.ok, false, rfl, .inl rfl⟩

theorem State.answers_deferred (s u : State) : s.Answers (u.result .deferred) :=
  .inr ⟨.deferred, false, rfl, .inr (.inl rfl)⟩

theorem State.answers_rejected (s u : State) : s.Answers (u.result .rejected) :=
  .inr ⟨.rejected, false, rfl, .inr (.inr rfl)⟩

/-- A guarded command answers FATAL, or as its body does (00_scope.md R12). -/
theorem State.guardCmd_answers {s : State} {body : State → State} (hi : s.init = true) (run : s.Answers (body s)) :
    s.Answers (s.guardCmd body) := by
  unfold State.guardCmd
  rw [if_neg (by simp [hi])]
  split_ifs
  · exact s.answers_resultV _ _
  · exact run

/-! ## The submissions -/

theorem State.submitRx_answers (s : State) (ch : Half) : s.Answers (submitResult (s.doSubmitRx ch)) := by
  rw [State.doSubmitRx_eq]
  dsimp only
  split_ifs
  · exact s.answers_ok _
  · exact s.answers_rejected _

theorem State.submitTx_answers (s : State) (ch : Half) (flg : BitVec 4) (a0 a1 : Word) :
    s.Answers (submitResult (s.doSubmitTx ch flg a0 a1)) := by
  rw [State.doSubmitTx_eq]
  dsimp only
  split_ifs
  · exact s.answers_ok _
  · exact s.answers_rejected _
  · exact s.answers_resultV _ _

theorem State.submitNoop_answers (s : State) : s.Answers (submitResult s.doSubmitNoop) := by
  rw [State.doSubmitNoop_eq]
  dsimp only
  split_ifs
  · exact s.answers_ok _
  · exact s.answers_rejected _

/-! ## Every command -/

/-- INIT refuses as the other commands do, succeeds, or enters the fatal state (40_scheduler.md R230). -/
theorem cmdInit_answers (s : State) : s.Answers (cmdInit s) ∨ (cmdInit s).res = resWord .fatal false := by
  rw [cmdInit_eq]
  split_ifs
  · exact .inl (s.answers_resultV _ _)
  · exact .inl (s.answers_resultV _ _)
  · exact .inl (s.answers_ok _)
  · exact .inl (s.answers_ok _)
  · exact .inr rfl

/-- Every other command refuses without effect, or completes. -/
theorem exec_answers {i : Instr} {s t : State} (hport : i.port = .cmd) (hexp : i.expansion = [i]) (hinit : i ≠ .init)
    (hi : s.init = true) (h : exec i s = .next t) : s.Answers t := by
  cases i <;> cases h
  case init => exact absurd rfl hinit
  case evtPreamble | evtFrameOk | evtBadCrc | evtBufFull | evtCmdDone | evtCmdStopped | evtCmdPreempted | evtTcFired =>
    cases hport
  case backoffCancel | stopNow | stopGraceful | tcRearm | setAddr | promiscOn => cases hexp
  all_goals refine State.guardCmd_answers hi ?_
  case submitRx ch =>
    split_ifs
    · exact s.answers_resultV _ _
    · exact s.answers_resultV _ _
    · exact s.answers_resultV _ _
    · exact s.submitRx_answers ch
  case submitTx ch ackReq cca =>
    split_ifs
    · exact s.answers_resultV _ _
    · exact s.answers_resultV _ _
    · exact s.submitTx_answers ch _ _ _
  case submitNoop =>
    split_ifs
    · exact s.answers_resultV _ _
    · exact s.submitNoop_answers
  case updateTxPower v =>
    split_ifs
    · exact s.answers_ok _
    · exact s.answers_deferred _
  case dcRecord =>
    split_ifs
    · exact s.answers_resultV _ _
    · exact s.answers_ok _
  case dcCheck => exact s.answers_resultV _ _
  case backoffReq sel =>
    split
    · exact s.answers_resultV _ _
    · exact s.answers_ok _
  case stopAll | setupTc | dcAdvance | setRole | setPan | setShort | setExt | setFilterMode => exact s.answers_ok _

/-- Settles O23: a refusal's code is none of the three that come with an effect (`exec_answers`), and INIT's refusals
but FATAL are of the same kind (`cmdInit_answers`). -/
theorem refusalsChangeOnlyRes : Obligations.RefusalsChangeOnlyRes := by
  intro i s t hport hexp hexec hi hcode
  have hanswers : s.Answers t ∨ (i = .init ∧ t.res = resWord .fatal false) := by
    by_cases hinit : i = .init
    · subst hinit
      cases hexec
      exact (cmdInit_answers s).imp_right fun h => ⟨rfl, h⟩
    · exact .inl (exec_answers hport hexp hinit hi hexec)
  obtain (honly | ⟨c, v, hres, hc⟩) | ⟨hinit, hres⟩ := hanswers
  · exact honly
  · rw [hres, extractLsb'_resWord] at hcode
    rcases hc with rfl | rfl | rfl <;> simp [ResultCode.num] at hcode
  · rw [hres, extractLsb'_resWord] at hcode
    simp [ResultCode.num, hinit] at hcode

end Sys2Proof.Machine
end

section
/-!
PROOFS. O56: PowerVote and the outstanding counter (40_scheduler.md R266). An operation leaves the votes and the counter
alone, or accepts a chain, or retires one; an event word never puts a first command in flight.
-/

namespace Sys2Proof.Machine

/-! ## The votes of a list of messages -/

@[simp] theorem powerVotes_append (l m : List OutMsg) : powerVotes (l ++ m) = powerVotes l ++ powerVotes m :=
  List.filterMap_append

@[simp] theorem powerVotes_nil : powerVotes [] = [] := rfl

@[simp] theorem powerVotes_cons_vote (v : Vote) (l : List OutMsg) :
    powerVotes (.powerVote v :: l) = v :: powerVotes l := rfl

@[simp] theorem powerVotes_cons_of_ne {m : OutMsg} (h : ∀ v, m ≠ .powerVote v) (l : List OutMsg) :
    powerVotes (m :: l) = powerVotes l := by
  cases m
  case powerVote v => exact absurd rfl (h v)
  all_goals rfl

/-! ## The operations that send no vote -/

@[simp] theorem State.discard_votes (s : State) (r : DiagReason) :
    powerVotes (s.discard r).out = powerVotes s.out := by
  rw [State.discard_out]
  split_ifs <;> simp

@[simp] theorem State.parserStop_votes (s : State) : powerVotes s.parserStop.out = powerVotes s.out := by
  unfold State.parserStop State.discardToIdle
  split_ifs <;> simp

@[simp] theorem State.unexpectedEnd_votes (s : State) : powerVotes s.unexpectedEnd.out = powerVotes s.out := by
  unfold State.unexpectedEnd
  dsimp only
  split_ifs <;> simp

@[simp] theorem State.finishFrame_votes (s : State) : powerVotes s.finishFrame.out = powerVotes s.out := by
  simp [State.finishFrame]

@[simp] theorem State.dcAdd_votes (s : State) (d : Word) : powerVotes (s.dcAdd d).out = powerVotes s.out := by
  simp only [State.dcAdd, State.notifyMode_out]
  split_ifs <;> simp

@[simp] theorem State.dcAdvance_votes (s : State) : powerVotes s.dcAdvance.out = powerVotes s.out := by
  simp only [State.dcAdvance, State.notifyMode_out]
  split_ifs <;> simp

@[simp] theorem State.dcRecordInternal_votes (s : State) (d : Word) :
    powerVotes (s.dcRecordInternal d).out = powerVotes s.out := by
  unfold State.dcRecordInternal
  split_ifs <;> simp

@[simp] theorem State.applyPendingPower_votes (s : State) : powerVotes s.applyPendingPower.out = powerVotes s.out := by
  unfold State.applyPendingPower
  split_ifs <;> simp

@[simp] theorem State.principalEnd_votes (s : State) (p : Slot) (kind : EndKind) :
    powerVotes (s.principalEnd p kind).out = powerVotes s.out := by
  unfold State.principalEnd
  split
  · exact s.parserStop_votes
  · unfold State.txEnd
    dsimp only
    split_ifs <;> simp
  · unfold State.ackEnd
    dsimp only
    split_ifs <;> simp
  · rfl

@[simp] theorem State.disarm_votes (s : State) (ch : TcChan) : powerVotes (s.disarm ch).out = powerVotes s.out := by
  unfold State.disarm
  split_ifs <;> simp

@[simp] theorem State.tcFired_votes (s : State) (ch : TcChan) : powerVotes (s.tcFired ch).out = powerVotes s.out := by
  unfold State.tcFired
  split_ifs <;> simp

@[simp] theorem State.tcFiredSlot_votes (s : State) (x : Slot) :
    powerVotes (s.tcFiredSlot x).out = powerVotes s.out := by
  cases x <;> simp [State.tcFiredSlot]

@[simp] theorem State.emitDisable_votes (s : State) (ch : TcChan) :
    powerVotes (s.emitDisable ch).out = powerVotes s.out := by
  unfold State.emitDisable
  split_ifs <;> simp

@[simp] theorem State.initialise_votes (s : State) : powerVotes s.initialise.out = powerVotes s.out := by
  unfold State.initialise
  dsimp only
  split_ifs
  · exact ((s.emitDisable .a).emitDisable_votes .b).trans (s.emitDisable_votes .a)
  · rfl

/-! ## The receive machine

With a command in flight the receive machine sends no vote: it may put ACK in flight besides (R321, R353). -/

/-- The votes sent, the outstanding counter, and what is in flight. -/
@[simp] def State.voteView (s : State) := (powerVotes s.out, s.cntTotal, s.inflight)

/-- The votes sent are `l`, and a command is in flight, the counter having room for ACK. -/
structure State.Outstanding (s : State) (l : List Vote) : Prop where
  votes : powerVotes s.out = l
  counted : s.cntTotal ≠ 0
  room : s.inflight.ack = false → s.cntTotal + 1 ≠ 0

section
variable {s : State} {l : List Vote} (h : s.Outstanding l)
include h

theorem State.Outstanding.congr {t : State} (e : t.voteView = s.voteView) : t.Outstanding l := by
  simp only [State.voteView, Prod.mk.injEq] at e
  obtain ⟨votes, total, flight⟩ := e
  exact ⟨votes.trans h.votes, total ▸ h.counted, fun hack => total ▸ h.room (flight ▸ hack)⟩

theorem State.Outstanding.discard (r : DiagReason) : (s.discard r).Outstanding l := h.congr (by simp)

/-- Accepting ACK beside another command sends no vote (R232). -/
theorem State.Outstanding.acceptAck (hfree : s.inflight.ack = false) : (s.onAccepted .ack [.ack]).Outstanding l where
  votes := by simpa only [State.onAccepted_out, if_neg h.counted, List.append_nil] using h.votes
  counted := by simpa using h.room hfree
  room hack := by simp [PerSlot.setAll, PerSlot.set] at hack

theorem State.Outstanding.submitAck (p q : Word) : (s.submitAck p q).2.Outstanding l :=
  h.congr (by simp [State.submitAck_eq])

theorem State.Outstanding.submitImmAck : s.submitImmAck.Outstanding l := by
  rw [State.submitImmAck_eq]
  dsimp only
  split_ifs with hack
  · exact h.congr (by simp)
  · exact ((h.submitAck _ _).acceptAck (by simpa using hack)).congr rfl
  · exact (h.submitAck _ _).congr rfl

theorem State.Outstanding.submitEnhAck : s.submitEnhAck.Outstanding l := by
  have hdrawn : s.drawEnhAckIEs.2.Outstanding l := h.congr (by simp)
  rw [State.submitEnhAck_eq]
  dsimp only
  split_ifs with hack
  · exact h.congr (by simp)
  · exact ((hdrawn.submitAck _ _).acceptAck (by simpa using hack)).congr rfl
  · exact (hdrawn.submitAck _ _).congr rfl

/-! ### The stages (41_rx_frame_fsm.md R306 to R340) -/

theorem State.Outstanding.hdrStep : s.hdrStep.Outstanding l := by
  unfold State.hdrStep
  dsimp only
  split_ifs
  · exact h.discard _
  · exact h.discard _
  · exact h.discard _
  · exact h.discard _
  · split
    · exact h.discard _
    · rw [State.hdrAllocate_eq]
      split_ifs <;> exact h.congr (by simp)

theorem State.Outstanding.addrPass : s.addrPass.Outstanding l := by
  have hacked : (if s.ackNeeded then s.submitImmAck else s).Outstanding l := by
    split_ifs
    · exact h.submitImmAck
    · exact h
  exact hacked.congr rfl

theorem State.Outstanding.stageStep : s.stageStep.Outstanding l := by
  unfold State.stageStep
  split
  · exact h.hdrStep
  · obtain ⟨u, r, rfl | rfl, hstep⟩ | hstep := s.addrStep_cases
    · exact hstep ▸ h.discard r
    · exact hstep ▸ h.congr (by simp)
    · exact hstep ▸ (h.congr (t := { s with pf := s.addressFrame }) rfl).addrPass
  · obtain ⟨r, hstep⟩ | ⟨-, hstep⟩ := s.secHdrStep_cases
    · exact hstep ▸ h.discard r
    · exact hstep ▸ h.congr rfl
  · obtain hstep | hstep := s.payloadStep_cases
    · exact hstep ▸ h.discard _
    · exact hstep ▸ h.congr rfl
  all_goals exact h

/-! ### The dispatch (R350 to R354) -/

theorem State.Outstanding.ackConsume : s.ackConsume.Outstanding l := by
  unfold State.ackConsume
  split_ifs
  · exact h.congr (by simp)
  · exact h.discard _

theorem State.Outstanding.ackAndDeliver : s.ackAndDeliver.Outstanding l := by
  have hacked : (if s.enhAckRequired then s.submitEnhAck else s).Outstanding l := by
    split_ifs
    · exact h.submitEnhAck
    · exact h
  exact hacked.congr (by simp [State.ackAndDeliver, State.deliver])

theorem State.Outstanding.dispatchFrame : s.dispatchFrame.Outstanding l := by
  unfold State.dispatchFrame
  split_ifs
  · split
    · exact State.Outstanding.ackAndDeliver (h.congr rfl)
    · exact h.discard _
    · exact h.discard _
  · exact h.ackAndDeliver

theorem State.Outstanding.trailerAndDispatch : s.trailerAndDispatch.Outstanding l := by
  have hread : State.Outstanding { s with pf := s.trailerFrame } l := h.congr rfl
  unfold State.trailerAndDispatch
  dsimp only
  split_ifs
  · exact h.discard _
  · exact hread.ackConsume
  · exact hread.dispatchFrame

theorem State.Outstanding.frameOkEvent (hs : s.rxState ≠ .idle) : s.frameOkEvent.Outstanding l := by
  have idle {u : State} (hu : u.Outstanding l) : u.haltedToIdle.Outstanding l :=
    hu.congr (by simp)
  have frame : s.endFrame.Outstanding l := by
    have hdue : s.runDueStages.Outstanding l := h.stageStep.stageStep.stageStep.stageStep
    unfold State.endFrame
    dsimp only
    split_ifs
    · exact idle hdue.trailerAndDispatch
    · exact idle hdue
  unfold State.frameOkEvent
  split
  · exact absurd ‹_› hs
  · exact idle h
  all_goals exact frame

end

/-! ## The edges of the counter (R266) -/

/-- The votes of a step that takes the outstanding counter from `a` to `b`. -/
def edgeVotes (a b : BitVec 8) : List Vote :=
  if a = 0 ∧ b ≠ 0 then [.hold] else if a ≠ 0 ∧ b = 0 then [.allow] else []

/-- From `s` to `t` the votes are those of the counter's edge. -/
def State.VotesEdge (s t : State) : Prop := powerVotes t.out = powerVotes s.out ++ edgeVotes s.cntTotal t.cntTotal

@[simp] theorem edgeVotes_self (a : BitVec 8) : edgeVotes a a = [] := by simp [edgeVotes]

theorem edgeVotes_of_ne_zero {a b : BitVec 8} (ha : a ≠ 0) (hb : b ≠ 0) : edgeVotes a b = [] := by
  rw [edgeVotes, if_neg (fun h => ha h.1), if_neg (fun h => hb h.2)]

/-- Before and after an edge the votes and the counter may stay. -/
theorem State.VotesEdge.congr {s s' t t' : State} (h : s.VotesEdge t) (es : s.voteView = s'.voteView)
    (et : t'.voteView = t.voteView) : s'.VotesEdge t' := by
  simp only [State.voteView, Prod.mk.injEq] at es et
  obtain ⟨hsv, hst, -⟩ := es
  obtain ⟨htv, htt, -⟩ := et
  rw [State.VotesEdge, ← hsv, ← hst, htv, htt, h]

theorem State.VotesEdge.of_quiet {s t : State} (votes : powerVotes t.out = powerVotes s.out)
    (total : t.cntTotal = s.cntTotal) : s.VotesEdge t := by
  rw [State.VotesEdge, votes, total, edgeVotes_self, List.append_nil]

theorem State.VotesEdge.of_view {s t : State} (e : t.voteView = s.voteView) : s.VotesEdge t := by
  simp only [State.voteView, Prod.mk.injEq] at e
  exact .of_quiet e.1 e.2.1

/-- The counter never comes near its width: at most four principals are in flight (10_state.md R36). -/
theorem State.FlightInv.cntTotal_succ_ne_zero {s : State} (h : s.FlightInv) : s.cntTotal + 1 ≠ 0 := by
  have hle := s.inFlightPrincipals_le
  have htotal := h.total
  bv_omega

theorem State.FlightInv.cntTotal_ne_zero {s : State} (h : s.FlightInv) {x : Slot} (hin : s.inflight.get x = true) :
    s.cntTotal ≠ 0 := fun hz => by
  have hpos := h.cntTotal_pos hin
  simp [hz] at hpos

/-! ### Submissions (R232) -/

/-- One more command in flight, and the vote HOLD if it is the first. -/
theorem State.VotesEdge.of_hold {s t : State} (hroom : s.cntTotal + 1 ≠ 0)
    (votes : powerVotes t.out = powerVotes s.out ++ powerVotes s.holdVote) (total : t.cntTotal = s.cntTotal + 1) :
    s.VotesEdge t := by
  rw [State.VotesEdge, votes, total, State.holdVote, edgeVotes]
  by_cases hfirst : s.cntTotal = 0
  · rw [if_pos hfirst, if_pos ⟨hfirst, hroom⟩]
    rfl
  · rw [if_neg hfirst, if_neg (fun h => hfirst h.1), if_neg (fun h => hroom h.2)]
    rfl

section
variable {s : State} (hroom : s.cntTotal + 1 ≠ 0)
include hroom

theorem State.doSubmitRx_edge (ch : Half) : s.VotesEdge (s.doSubmitRx ch).2 := by
  rw [State.doSubmitRx_eq]
  dsimp only
  split_ifs
  · exact .of_hold hroom (by simp [State.onAccepted_out, State.holdVote]) (by simp)
  · exact .of_view (by simp)

theorem State.doSubmitTx_edge (ch : Half) (f : BitVec 4) (a0 a1 : Word) : s.VotesEdge (s.doSubmitTx ch f a0 a1).2 := by
  rw [State.doSubmitTx_eq]
  dsimp only
  split_ifs
  · exact .of_hold hroom (by simp [State.onAccepted_out, State.holdVote]) (by simp)
  · exact .of_view (by simp)
  · exact .of_view rfl

theorem State.doSubmitNoop_edge : s.VotesEdge s.doSubmitNoop.2 := by
  rw [State.doSubmitNoop_eq]
  dsimp only
  split_ifs
  · exact .of_hold hroom (by simp [State.onAccepted_out, State.holdVote]) (by simp)
  · exact .of_view (by simp)

/-- RETRY(c) submits as the class's command does, or drops the request (43_backoff_timers.md R435, R436). -/
theorem State.retryStep_edge (c : OpClass) : s.VotesEdge (s.retryStep c) := by
  have outcome (u : State) (out : ResultCode) : (u.retryOutcome c out).voteView = u.voteView := by
    cases out <;> simp [State.retryOutcome, State.dropRetry]
  have submit (u : State) (a : RetryArgs) (hu : u.cntTotal + 1 ≠ 0) : u.VotesEdge (u.retrySubmit c a).2 := by
    cases c
    case rx =>
      simp only [State.retrySubmit]
      split_ifs
      · exact .of_view rfl
      · exact .of_view rfl
      · exact State.doSubmitRx_edge hu _
    case tx =>
      simp only [State.retrySubmit]
      split_ifs
      · exact .of_view rfl
      · exact State.doSubmitTx_edge hu _ _ _ _
    case noop =>
      simp only [State.retrySubmit]
      split_ifs
      · exact .of_view rfl
      · exact State.doSubmitNoop_edge hu
  rw [State.retryStep_eq]
  dsimp only
  split_ifs
  · exact (submit { s with retryEvt := s.retryEvt.set c false } _ hroom).congr rfl (outcome _ _)
  · exact .of_view rfl

end

/-! ### Commands -/

theorem State.guardCmd_edge {s : State} {body : State → State} (run : s.VotesEdge (body s)) :
    s.VotesEdge (s.guardCmd body) :=
  State.guardCmd_keeps (.of_view (by simp)) (.of_view (by simp)) fun _ => run

/-- A guarded command whose body sends no vote and leaves the counter alone. -/
theorem State.guardCmd_voteView {s : State} {body : State → State} (run : (body s).voteView = s.voteView) :
    (s.guardCmd body).voteView = s.voteView :=
  State.guardCmd_keeps (P := fun u => u.voteView = s.voteView) (by simp) (by simp) fun _ => run

theorem State.FlightInv.cmdInit_edge {s : State} (h : s.FlightInv) : s.VotesEdge (cmdInit s) := by
  have reset (u : State) (e : u.voteView = s.voteView) (hzero : s.cntTotal = 0) : s.VotesEdge u.initialise :=
    .of_quiet (u.initialise_votes.trans (congrArg Prod.fst e)) (by simp [hzero])
  rw [cmdInit_eq]
  split_ifs with hfatal hbusy
  · exact .of_view (by simp)
  · exact .of_view (by simp)
  all_goals
    have hzero : s.cntTotal = 0 := by
      by_cases hi : s.init = true
      · exact BitVec.eq_of_toNat_eq (by simp_all)
      · exact h.down (.inl (by simpa using hi))
  · exact reset s rfl hzero
  · exact reset _ (by simp) hzero
  · exact .of_view (by simp)

theorem cmdStopAll_voteView (graceful : Bool) (s : State) : (cmdStopAll graceful s).voteView = s.voteView :=
  State.guardCmd_voteView (by simp)

theorem cmdUpdateTxPower_voteView (v : Half) (s : State) : (cmdUpdateTxPower v s).voteView = s.voteView :=
  State.guardCmd_voteView (by split <;> simp)

theorem cmdSetupTc_voteView (ch : TcChan) (cb : Half) (s : State) : (cmdSetupTc ch cb s).voteView = s.voteView := by
  rw [cmdSetupTc_eq]
  exact State.guardCmd_voteView (by simp)

theorem cmdDcRecord_voteView (s : State) : (cmdDcRecord s).voteView = s.voteView :=
  State.guardCmd_voteView (by split <;> simp)

theorem cmdBackoffReq_voteView (sel : BitVec 4) (s : State) : (cmdBackoffReq sel s).voteView = s.voteView :=
  State.guardCmd_voteView (by split <;> simp)

theorem cmdSetPan_voteView (pan : Half) (s : State) : (cmdSetPan pan s).voteView = s.voteView :=
  State.guardCmd_voteView (by simp)

theorem cmdSetShort_voteView (addr : Half) (s : State) : (cmdSetShort addr s).voteView = s.voteView :=
  State.guardCmd_voteView (by simp)

theorem cmdSetExt_voteView (s : State) : (cmdSetExt s).voteView = s.voteView := State.guardCmd_voteView (by simp)

theorem cmdSetFilterMode_voteView (allow : Byte) (promisc enhAck ackFp : Bool) (s : State) :
    (cmdSetFilterMode allow promisc enhAck ackFp s).voteView = s.voteView := State.guardCmd_voteView (by simp)

section
variable {s : State} (hroom : s.cntTotal + 1 ≠ 0)
include hroom

theorem cmdSubmitRx_edge (ch : Half) : s.VotesEdge (cmdSubmitRx ch s) := by
  refine State.guardCmd_edge ?_
  split_ifs
  · exact .of_view (by simp)
  · exact .of_view (by simp)
  · exact .of_view (by simp)
  · exact (State.doSubmitRx_edge hroom ch).congr rfl rfl

theorem cmdSubmitTx_edge (ch : Half) (ackReq cca : Bool) : s.VotesEdge (cmdSubmitTx ch ackReq cca s) := by
  refine State.guardCmd_edge ?_
  split_ifs
  · exact .of_view (by simp)
  · exact .of_view (by simp)
  · exact (State.doSubmitTx_edge hroom ch _ _ _).congr rfl rfl

theorem cmdSubmitNoop_edge : s.VotesEdge (cmdSubmitNoop s) := by
  refine State.guardCmd_edge ?_
  split_ifs
  · exact .of_view (by simp)
  · exact (State.doSubmitNoop_edge hroom).congr rfl rfl

end

theorem State.FlightInv.command_edge {i : Instr} {s t : State} (h : s.FlightInv) (hport : i.port = .cmd)
    (he : exec i s = .next t) : s.VotesEdge t := by
  have hroom := h.cntTotal_succ_ne_zero
  cases i
  case evtPreamble | evtFrameOk | evtBadCrc | evtBufFull | evtCmdDone | evtCmdStopped | evtCmdPreempted | evtTcFired =>
    cases hport
  all_goals cases he
  case init => exact h.cmdInit_edge
  case submitRx ch => exact cmdSubmitRx_edge hroom ch
  case submitTx ch a c => exact cmdSubmitTx_edge hroom ch a c
  case submitNoop => exact cmdSubmitNoop_edge hroom
  case stopAll g => exact .of_view (cmdStopAll_voteView g s)
  case updateTxPower v => exact .of_view (cmdUpdateTxPower_voteView v s)
  case setupTc ch cb => exact .of_view (cmdSetupTc_voteView ch cb s)
  case dcRecord => exact .of_view (cmdDcRecord_voteView s)
  case dcCheck | dcAdvance | setRole => exact .of_view (State.guardCmd_voteView (by simp))
  case backoffReq sel => exact .of_view (cmdBackoffReq_voteView sel s)
  case setPan p => exact .of_view (cmdSetPan_voteView p s)
  case setShort a => exact .of_view (cmdSetShort_voteView a s)
  case setExt => exact .of_view (cmdSetExt_voteView s)
  case setFilterMode a p e f => exact .of_view (cmdSetFilterMode_voteView a p e f s)
  case backoffCancel sel => exact .of_view (cmdBackoffReq_voteView sel (s.writeArg0 0))
  case stopNow => exact .of_view (cmdStopAll_voteView false s)
  case stopGraceful => exact .of_view (cmdStopAll_voteView true s)
  case tcRearm ch cb d => exact .of_view (cmdSetupTc_voteView ch cb (s.writeArg0 d))
  case setAddr p a e =>
    exact .of_view ((cmdSetExt_voteView _).trans ((cmdSetShort_voteView a _).trans (cmdSetPan_voteView p s)))
  case promiscOn => exact .of_view (cmdSetFilterMode_voteView _ _ _ _ s)

/-! ### Events

The counter may fall in an event word but not leave 0: a frame is received, and so acknowledged, only while RX is in
flight. Such steps compose. -/

theorem edgeVotes_trans {a b c : BitVec 8} (hab : a = 0 → b = 0) (hbc : b = 0 → c = 0) :
    edgeVotes a c = edgeVotes a b ++ edgeVotes b c := by
  by_cases ha : a = 0
  · simp [edgeVotes, ha, hab ha, hbc (hab ha)]
  · by_cases hb : b = 0
    · have hc := hbc hb
      simp_all [edgeVotes]
    · simp_all [edgeVotes]

/-- From `s` to `t` the votes are those of the counter's edge, and the counter does not leave 0. -/
structure State.Lowers (s t : State) : Prop where
  edge : s.VotesEdge t
  stays : s.cntTotal = 0 → t.cntTotal = 0

theorem State.Lowers.of_view {s t : State} (e : t.voteView = s.voteView) : s.Lowers t := by
  refine ⟨.of_view e, fun hz => ?_⟩
  simp only [State.voteView, Prod.mk.injEq] at e
  exact e.2.1.trans hz

/-- One command in flight less, and the vote ALLOW if it was the last. -/
theorem State.VotesEdge.of_allow {s t : State} (hpos : s.cntTotal ≠ 0)
    (votes : powerVotes t.out = powerVotes s.out ++ if s.cntTotal - 1 = 0 then [.allow] else [])
    (total : t.cntTotal = s.cntTotal - 1) : s.VotesEdge t := by
  rw [State.VotesEdge, votes, total, edgeVotes]
  by_cases hlast : s.cntTotal - 1 = 0
  · rw [if_pos hlast, if_neg (fun h => hpos h.1), if_pos ⟨hpos, hlast⟩]
  · rw [if_neg hlast, if_neg (fun h => hpos h.1), if_neg (fun h => hlast h.2)]

theorem State.Lowers.trans {s t u : State} (h : s.Lowers t) (k : t.Lowers u) : s.Lowers u where
  edge := by
    have hst := h.edge
    have htu := k.edge
    rw [State.VotesEdge] at hst htu ⊢
    rw [htu, hst, List.append_assoc, edgeVotes_trans h.stays k.stays]
  stays hz := k.stays (h.stays hz)

theorem State.Outstanding.lowers {s t : State} (hs : s.cntTotal ≠ 0) (h : t.Outstanding (powerVotes s.out)) :
    s.Lowers t where
  edge := by rw [State.VotesEdge, h.votes, edgeVotes_of_ne_zero hs h.counted, List.append_nil]
  stays hz := absurd hz hs

section
variable {s : State} (h : s.FlightInv)
include h

/-- While a frame is received RX is in flight (40_scheduler.md R233). -/
theorem State.FlightInv.outstanding (hs : s.rxState ≠ .idle) : s.Outstanding (powerVotes s.out) :=
  ⟨rfl, h.cntTotal_ne_zero (x := .rx) (h.frame hs), fun _ => h.cntTotal_succ_ne_zero⟩

theorem State.FlightInv.frameOkEvent_lowers : s.Lowers s.frameOkEvent := by
  by_cases hs : s.rxState = .idle
  · simp only [State.frameOkEvent, hs]
    exact .of_view (by simp)
  · exact ((h.outstanding hs).frameOkEvent hs).lowers (h.cntTotal_ne_zero (x := .rx) (h.frame hs))

theorem State.FlightInv.stageStep_edge : s.VotesEdge s.stageStep := by
  by_cases hs : s.rxState = .idle
  · simp only [State.stageStep, hs]
    exact .of_view rfl
  · exact ((h.outstanding hs).stageStep.lowers (h.cntTotal_ne_zero (x := .rx) (h.frame hs))).edge

theorem State.FlightInv.terminal_lowers (p : Slot) (kind : EndKind) : s.Lowers (s.terminal p kind) := by
  unfold State.terminal
  dsimp only
  split_ifs with hin
  · have hpos := h.cntTotal_ne_zero hin
    refine ⟨.of_allow hpos ?_ (by simp), fun hz => absurd hz hpos⟩
    rw [State.principalEnd_votes, State.retire_out]
    split_ifs <;> simp_all
  · exact .of_view (by simp)

theorem State.FlightInv.bitRule_lowers (x : Slot) (b : Nat) : s.Lowers (s.bitRule x b) := by
  unfold State.bitRule
  split
  · refine .of_view ?_
    unfold State.preambleEvent
    dsimp only
    split_ifs <;> simp
  · exact h.frameOkEvent_lowers
  · refine .of_view ?_
    unfold State.badCrcEvent State.discardToIdle
    split_ifs <;> simp
  · refine .of_view ?_
    unfold State.bufFullEvent State.discardToIdle
    split_ifs <;> simp
  · exact h.terminal_lowers x .done
  · exact h.terminal_lowers x .stopped
  · exact h.terminal_lowers x .preempted
  · exact .of_view (by simp)

theorem State.FlightInv.deliverEvent_edge (handle bits : Byte) : s.VotesEdge (s.deliverEvent handle bits) := by
  have k := flightInv_keptByRules
  have hkept : (s.deliverEvent handle bits).FlightInv ∧ s.Lowers (s.deliverEvent handle bits) :=
    State.deliverEvent_keeps (P := fun u => u.FlightInv ∧ s.Lowers u) handle bits ⟨h, .of_view rfl⟩
      ⟨k.congr (by simp) h, .of_view (by simp)⟩
      (fun u hu => ⟨k.count _ hu.1, hu.2.trans (.of_view (by simp))⟩)
      fun u x b hr hu hb => ⟨k.bitRule hr hu.1 hb, hu.2.trans (hu.1.bitRule_lowers x b)⟩
  exact hkept.2.edge

/-! ### Steps -/

theorem State.FlightInv.exec_edge {i : Instr} {t : State} (he : exec i s = .next t) : s.VotesEdge t := by
  cases hport : i.port with
  | cmd => exact h.command_edge hport he
  | evt =>
    obtain ⟨handle, bits, hexec⟩ := exec_of_port_evt hport
    rw [hexec] at he
    cases he
    exact h.deliverEvent_edge handle bits

theorem State.FlightInv.agentStep_edge (a : Agent) : s.VotesEdge (s.agentStep a) := by
  cases a with
  | parser => exact h.stageStep_edge
  | boTimer c => exact .of_view (by simp [State.agentStep])
  | retry c => exact State.retryStep_edge h.cntTotal_succ_ne_zero c
  | ackTimer => exact .of_view (by simp [State.agentStep])

theorem State.FlightInv.moveCase_edge {t : State} (hm : MoveCase s t) : s.VotesEdge t := by
  cases hm with
  | exec i he => exact h.exec_edge he
  | illegal w => exact .of_view (by unfold State.illegalCmd; split_ifs <;> simp)
  | arg0 v => exact .of_view rfl
  | arg1 v => exact .of_view rfl
  | ignored => exact .of_view rfl
  | read off => exact .of_view (by rw [State.readReg_frame]; rfl)
  | badEvent => exact State.badEventWord_keeps (.of_view rfl) (.of_view (by simp)) (.of_view (by simp))
  | ring k bytes done hok => exact .of_view rfl
  | agent a ha => exact h.agentStep_edge a

theorem State.FlightInv.step_edge {t : State} (hstep : step s = .next t) : s.VotesEdge t := by
  have k := flightInv_keptByRules
  obtain ⟨-, ⟨-, rfl⟩ | ⟨m, rest, -, hmove⟩⟩ := step_cases hstep
  · obtain hwait | ⟨a, -, hagent⟩ := s.idleStep_cases
    · rw [hwait]
      exact .of_view rfl
    · rw [hagent]
      exact (State.FlightInv.agentStep_edge (k.congr (by simp) h) a).congr (s := s.bumpFree) rfl rfl
  · exact (State.FlightInv.moveCase_edge (k.congr (by simp) h) hmove).congr rfl rfl

end

/-- STATUS bit 2 is PD_VOTE (20_memory.md R106). -/
theorem State.regStatus_bit2 (s : State) : s.regStatus.getLsbD 2 = s.pdVote := by
  simp only [State.regStatus, BitVec.getLsbD_append]
  simp

/-- Settles O56: every step extends the output (`step_extends`), by the votes of the counter's edge
(`State.FlightInv.step_edge`). -/
theorem powerVoteOnEdges : Obligations.PowerVoteOnEdges := by
  refine ⟨fun s => ?_, fun s t hinv hstep => ?_⟩
  · rw [State.regStatus_bit2]
    simp [State.pdVote, and_assoc]
  · obtain ⟨ms, hout⟩ := (step_extends hstep).out
    have hedge := hinv.step_edge hstep
    rw [State.VotesEdge, ← hout, powerVotes_append] at hedge
    exact ⟨ms, hout.symm, List.append_cancel_left hedge⟩

end Sys2Proof.Machine
end

section
/-!
PROOFS. O12, O13, O45: SUBMIT_TX, SUBMIT_NOOP and the retries (40_scheduler.md R231 to R246; 43_backoff_timers.md R435,
R436). What a class submits is one lemma for each answer of the radio; the command and the retry both cite it.
-/

namespace Sys2Proof.Machine

/-! ## chainTx(ch, cca, buf, len, air) -/

/-- The head of chainTx (R231). -/
theorem State.txChain_head (s : State) (ch : Half) (cca : Bool) : (s.txChain ch cca).headD .tx =
    if s.progValid = false ∨ s.progChannel ≠ ch then .fsTx else if cca then .cca else .tx := by
  unfold State.txChain
  simp only [← State.needFs_eq_true]
  cases cca <;> split_ifs <;> rfl

/-- chainTx changes the arena alone (R231). -/
theorem State.chainTx_eq (s : State) (ch : Half) (cca : Bool) (a0 a1 : Word) :
    s.chainTx ch cca (txBufField a1) (txLenField a1) a0 = { s with desc := s.txArena ch cca a0 a1 } := by
  unfold State.chainTx State.txChain State.txArena
  simp only [← State.needFs_eq_true]
  cases cca <;> cases s.needFs ch <;> rfl

/-- The slots an accepted chainTx puts in flight (R232). -/
theorem State.setAll_txChain (s : State) (ch : Half) (cca : Bool) :
    s.inflight.setAll true (s.txChain ch cca) = { s.inflight with
      fsTx := s.inflight.fsTx || (!s.progValid || decide (s.progChannel ≠ ch))
      cca := s.inflight.cca || cca
      tx := true } := by
  change _ = { s.inflight with fsTx := s.inflight.fsTx || s.needFs ch, cca := s.inflight.cca || cca, tx := true }
  unfold State.txChain
  cases s.needFs ch <;> cases cca <;> simp [PerSlot.setAll, PerSlot.set]

/-- chainTx submitted: the arena, the message and the radio's answer (R231, R232). -/
theorem State.submit_chainTx (s : State) (ch : Half) (cca : Bool) (a0 a1 : Word) :
    (s.chainTx ch cca (txBufField a1) (txLenField a1) a0).submit .tx ((s.txChain ch cca).headD .tx) none =
      (s.drawAccept.1,
        { s with
          desc := s.txArena ch cca a0 a1
          out := s.out ++ [s.txSubmit ch cca]
          draws := s.drawAccept.2.draws }) := by
  obtain ⟨hanswer, hdraws⟩ := State.drawAccept_congr (s := s) (t := { s with desc := s.txArena ch cca a0 a1 }) rfl
  rw [State.chainTx_eq, State.submit_eq, State.txChain_head, hanswer, hdraws]
  rfl

section
variable {s : State} {ch : Half} {flg : BitVec 4} {a0 a1 : Word} (hdc : s.dcAllowed a0 = true)
include hdc

/-- doSubmitTx, the radio accepting (R241). -/
theorem State.doSubmitTx_accepted (h : s.drawAccept.1 = true) :
    s.doSubmitTx ch flg a0 a1 = (.ok, s.txAccepted ch flg a0 a1) := by
  rw [State.doSubmitTx_eq, if_pos hdc, State.submit_chainTx]
  dsimp only
  rw [if_pos h, State.onAccepted_eq, State.txAccepted, ← State.setAll_txChain]
  rfl

/-- doSubmitTx, the radio rejecting (R241). -/
theorem State.doSubmitTx_rejected (hdelay : s.cfg.txBoDelay ≠ 0) (h : s.drawAccept.1 = false) :
    s.doSubmitTx ch flg a0 a1 = (.rejected, s.txRejected ch flg a0 a1) := by
  rw [State.doSubmitTx_eq, if_pos hdc, State.submit_chainTx]
  dsimp only
  rw [if_neg (Bool.eq_false_iff.mp h), State.boRequest_of_ne_zero _ _ hdelay]
  rfl

end

/-- doSubmitTx past the duty-cycle limit (R241). -/
theorem State.doSubmitTx_blocked {s : State} {ch : Half} {flg : BitVec 4} {a0 a1 : Word}
    (hdc : s.dcAllowed a0 = false) : s.doSubmitTx ch flg a0 a1 = (.dcBlocked, s) := by
  rw [State.doSubmitTx_eq, if_neg (Bool.eq_false_iff.mp hdc)]

/-! ## chainNoop() -/

/-- chainNoop() submitted (R231, R232). -/
theorem State.submit_chainNoop (s : State) : s.chainNoop.submit .noop .noop none = (s.drawAccept.1,
    { s with
      desc := s.noopArena
      out := s.out ++ [.submit .noop .noop 0x70 none]
      draws := s.drawAccept.2.draws }) := by
  obtain ⟨hanswer, hdraws⟩ := State.drawAccept_congr (s := s) (t := { s with desc := s.noopArena }) rfl
  rw [show s.chainNoop = { s with desc := s.noopArena } from rfl, State.submit_eq, hanswer, hdraws]
  rfl

/-- doSubmitNoop(), the radio accepting (R246). -/
theorem State.doSubmitNoop_accepted {s : State} (h : s.drawAccept.1 = true) :
    s.doSubmitNoop = (.ok, s.noopAccepted) := by
  rw [State.doSubmitNoop_eq, State.submit_chainNoop]
  dsimp only
  rw [if_pos h, State.onAccepted_eq]
  rfl

/-- doSubmitNoop(), the radio rejecting (R246). -/
theorem State.doSubmitNoop_rejected {s : State} (hdelay : s.cfg.noopBoDelay ≠ 0) (h : s.drawAccept.1 = false) :
    s.doSubmitNoop = (.rejected, s.noopRejected) := by
  rw [State.doSubmitNoop_eq, State.submit_chainNoop]
  dsimp only
  rw [if_neg (Bool.eq_false_iff.mp h), State.boRequest_of_ne_zero _ _ hdelay]
  rfl

/-! ## The checks -/

/-- The backoff delays of an admitted configuration are not 0 (00_scope.md R6). -/
theorem Config.boDelay_ne_zero {c : Config} (h : c.admitted = true) :
    c.rxBoDelay ≠ 0 ∧ c.txBoDelay ≠ 0 ∧ c.noopBoDelay ≠ 0 := by
  simp only [Config.admitted, decide_eq_true_eq] at h
  exact ⟨ne_zero_of_one_le (by omega), ne_zero_of_one_le (by omega), ne_zero_of_one_le (by omega)⟩

/-- The threshold as the rule words it (42_duty_cycle.md R390). -/
theorem State.effT_eq_threshold (s : State) (t : Word) : (s.effT t : Int) = s.threshold t := by
  unfold State.effT State.threshold
  simp only [Bool.and_eq_true]
  split_ifs
  · omega
  · rfl

/-- The duty-cycle check as the rule words it (R395). -/
theorem State.dcAllowed_iff (s : State) (d : Word) : s.dcAllowed d = true ↔ s.dcPasses d := by
  rw [State.dcPasses, ← State.effT_eq_threshold, State.dcAllowed, Bool.or_eq_true, Bool.not_eq_true',
    decide_eq_true_eq]
  norm_cast

theorem State.result_dcBlocked (s : State) : s.result .dcBlocked = { s with res := 0x00000005 } := rfl

/-- SUBMIT_TX past its guard (40_scheduler.md R240). -/
theorem exec_submitTx {s : State} (hr : s.ready) (ch : Half) (ackReq cca : Bool) :
    exec (.submitTx ch ackReq cca) s = .next
      (if s.txArgsBad ch then { s with res := 0x00000006 }
      else if s.inflight.tx || s.ackWait then { s with res := 0x00000002 }
      else submitResult (s.doSubmitTx ch (BitVec.ofNat 4 (ackReq.toNat + 2 * cca.toNat)) s.arg0 s.arg1)) := by
  have hflg : BitVec.ofNat 4 (ackReq.toNat + 2 * cca.toNat) = flgBits ackReq cca false := by
    cases ackReq <;> cases cca <;> rfl
  change Host.Outcome.next (s.guardCmd _) = _
  rw [State.guardCmd_ready hr.1 hr.2, hflg]
  rfl

theorem State.txArgsBad_iff (s : State) (ch : Half) : s.txArgsBad ch = true ↔
    s.cfg.nChannels ≤ ch.toNat ∨ (s.arg1.extractLsb' 16 11 : BitVec 11).toNat = 0 ∨
      s.cfg.maxFrameSize < (s.arg1.extractLsb' 16 11 : BitVec 11).toNat ∨
      s.arg1.extractLsb' 27 5 ≠ (0 : BitVec 5) := by
  have hlen : txLenField s.arg1 = 0 ↔ (s.arg1.extractLsb' 16 11 : BitVec 11).toNat = 0 := BitVec.toNat_inj.symm
  simp only [State.txArgsBad, Bool.or_eq_true, decide_eq_true_eq, hlen, or_assoc]
  rfl

/-- Settles O12: the checks in their order (`exec_submitTx`), then the radio's answer (`State.doSubmitTx_accepted`,
`State.doSubmitTx_rejected`). -/
theorem submitTransmit : Obligations.SubmitTransmit := by
  intro ch ackReq cca
  refine ⟨guards.1 (.submitTx ch ackReq cca) rfl rfl nofun, fun s hc hr => ?_⟩
  obtain ⟨-, hdelay, -⟩ := Config.boDelay_ne_zero hc
  have busy_iff : (s.inflight.tx || s.ackWait) = true ↔ s.inflight.tx = true ∨ s.ackWait = true := Bool.or_eq_true_iff
  simp only [← s.txArgsBad_iff ch, ← busy_iff, ← s.dcAllowed_iff, exec_submitTx hr]
  refine ⟨fun hbad => ?_, fun hbad hbusy => ?_, fun hbad hbusy hdc => ?_, fun hbad hbusy hdc hans => ?_,
    fun hbad hbusy hdc hans => ?_⟩
  · rw [if_pos hbad]
  · rw [if_neg hbad, if_pos hbusy]
  · rw [if_neg hbad, if_neg hbusy, State.doSubmitTx_blocked (by simpa using hdc)]
    exact congrArg _ (State.result_dcBlocked _)
  · rw [if_neg hbad, if_neg hbusy, State.doSubmitTx_accepted hdc hans]
    exact congrArg _ (State.result_ok _)
  · rw [if_neg hbad, if_neg hbusy, State.doSubmitTx_rejected hdc hdelay hans]
    exact congrArg _ (State.result_rejected _)

/-- SUBMIT_NOOP past its guard (R245). -/
theorem exec_submitNoop {s : State} (hr : s.ready) : exec .submitNoop s = .next
    (if s.inflight.noop then { s with res := 0x00000002 } else submitResult s.doSubmitNoop) := by
  change Host.Outcome.next (s.guardCmd _) = _
  rw [State.guardCmd_ready hr.1 hr.2]
  rfl

/-- Settles O13: the one check (`exec_submitNoop`), then the radio's answer (`State.doSubmitNoop_accepted`,
`State.doSubmitNoop_rejected`). -/
theorem submitNoOperation : Obligations.SubmitNoOperation := by
  refine ⟨guards.1 .submitNoop rfl rfl nofun, fun s hc hr => ?_⟩
  obtain ⟨-, -, hdelay⟩ := Config.boDelay_ne_zero hc
  rw [exec_submitNoop hr]
  refine ⟨fun hbusy => ?_, fun hbusy hans => ?_, fun hbusy hans => ?_⟩
  · rw [if_pos hbusy]
  · rw [if_neg (by simp [hbusy]), State.doSubmitNoop_accepted hans]
    exact congrArg _ (State.result_ok _)
  · rw [if_neg (by simp [hbusy]), State.doSubmitNoop_rejected hdelay hans]
    exact congrArg _ (State.result_rejected _)

/-! ## Retries -/

/-- What a retry leaves when the request cannot be submitted (43_backoff_timers.md R436). -/
theorem State.retryStep_dropped {s : State} {c : OpClass} {out : ResultCode} (hv : (s.retryArgs.get c).valid = true)
    (hout : out = .busy ∨ out = .busyDecode ∨ out = .dcBlocked)
    (h : State.retrySubmit { s with retryEvt := s.retryEvt.set c false } c (s.retryArgs.get c) =
      (out, { s with retryEvt := s.retryEvt.set c false })) :
    s.retryStep c = State.dropRetry { s with retryEvt := s.retryEvt.set c false } c := by
  rw [State.retryStep_eq]
  dsimp only
  rw [if_pos hv, h]
  obtain rfl | rfl | rfl := hout <;> rfl

/-- What a retry leaves when the request is submitted (R436). -/
theorem State.retryStep_submitted {s t : State} {c : OpClass} {out : ResultCode}
    (hv : (s.retryArgs.get c).valid = true) (hout : out = .ok ∨ out = .rejected)
    (h : State.retrySubmit { s with retryEvt := s.retryEvt.set c false } c (s.retryArgs.get c) = (out, t)) :
    s.retryStep c = t := by
  rw [State.retryStep_eq]
  dsimp only
  rw [if_pos hv, h]
  obtain rfl | rfl := hout <;> rfl

/-- Settles O45: the checks of the class's command, then the radio's answer, by the submission lemmas of the class. -/
theorem retrySteps : Obligations.RetrySteps := by
  intro s c hc
  obtain ⟨hrx, htx, hnoop⟩ := Config.boDelay_ne_zero hc
  refine ⟨by simp [State.enabled, State.running, and_assoc], fun hv => ?_, fun hv => ?_⟩
  · change s.retryStep c = _
    rw [State.retryStep_eq]
    exact if_neg (by simp [hv])
  have hans : (State.drawAccept { s with retryEvt := s.retryEvt.set c false }).1 = s.drawAccept.1 :=
    State.drawAccept_fst rfl
  change s.retryStep c = _
  cases c with
  | rx =>
    dsimp only
    split_ifs with hbusy haccept
    · by_cases hdec : s.rxState.midDecode = true
      · exact State.retryStep_dropped hv (.inr (.inl rfl)) (if_pos hdec)
      · exact State.retryStep_dropped hv (.inl rfl) ((if_neg hdec).trans (if_pos (hbusy.resolve_left hdec)))
    all_goals obtain ⟨hdec, hfree⟩ := not_or.mp hbusy
    · exact State.retryStep_submitted hv (.inl rfl)
        ((if_neg hdec).trans ((if_neg hfree).trans (State.doSubmitRx_accepted (hans.trans haccept))))
    · exact State.retryStep_submitted hv (.inr rfl) ((if_neg hdec).trans
        ((if_neg hfree).trans (State.doSubmitRx_rejected hrx (hans.trans (by simpa using haccept)))))
  | tx =>
    have busy_iff : (s.inflight.tx || s.ackWait) = true ↔ s.inflight.tx = true ∨ s.ackWait = true :=
      Bool.or_eq_true_iff
    dsimp only
    simp only [← or_assoc, ← busy_iff]
    split_ifs with hbusy haccept
    · by_cases hflight : (s.inflight.tx || s.ackWait) = true
      · exact State.retryStep_dropped hv (.inl rfl) (if_pos hflight)
      · exact State.retryStep_dropped hv (.inr (.inr rfl))
          ((if_neg hflight).trans (State.doSubmitTx_blocked (hbusy.resolve_left hflight)))
    all_goals
      obtain ⟨hfree, hpasses⟩ := not_or.mp hbusy
      have hdc : s.dcAllowed (s.retryArgs.get .tx).arg0 = true := by simpa using hpasses
    · exact State.retryStep_submitted hv (.inl rfl)
        ((if_neg hfree).trans (State.doSubmitTx_accepted hdc (hans.trans haccept)))
    · exact State.retryStep_submitted hv (.inr rfl)
        ((if_neg hfree).trans (State.doSubmitTx_rejected hdc htx (hans.trans (by simpa using haccept))))
  | noop =>
    dsimp only
    split_ifs with hbusy haccept
    · exact State.retryStep_dropped hv (.inl rfl) (if_pos hbusy)
    · exact State.retryStep_submitted hv (.inl rfl)
        ((if_neg hbusy).trans (State.doSubmitNoop_accepted (hans.trans haccept)))
    · exact State.retryStep_submitted hv (.inr rfl)
        ((if_neg hbusy).trans (State.doSubmitNoop_rejected hnoop (hans.trans (by simpa using haccept))))

end Sys2Proof.Machine
end

section
/-!
PROOFS. O10, O14, O15, O16: INIT, STOP_ALL, UPDATE_TX_POWER and SETUP_TC (40_scheduler.md R230, R248, R250, R253).
-/

namespace Sys2Proof.Machine

/-! ## INIT -/

theorem State.emitDisable_eq (s : State) (ch : TcChan) : s.emitDisable ch =
    { s with out := s.out ++ if (s.tc.get ch).armed = true then [.disableTc ch] else [] } := by
  unfold State.emitDisable
  split_ifs
  · rfl
  · rw [List.append_nil]

/-- A repeated INIT disables the armed channels (R230). -/
theorem State.disableArmed_eq (s : State) : (if s.init then (s.emitDisable .a).emitDisable .b else s) =
    { s with out := s.out ++ (if s.init = true ∧ s.tc.a.armed = true then [.disableTc .a] else []) ++
        (if s.init = true ∧ s.tc.b.armed = true then [.disableTc .b] else []) } := by
  by_cases hi : s.init = true
  · rw [if_pos hi, State.emitDisable_eq, State.emitDisable_eq]
    simp only [hi, true_and]
    rfl
  · rw [if_neg hi, if_neg (fun h => hi h.1), if_neg (fun h => hi h.1), List.append_nil, List.append_nil]

/-- INIT past the allocation: the values of R541, behind the messages that disable the armed channels. -/
theorem State.initialise_eq (s : State) : s.initialise =
    { s.initValues with
      init := true
      out := s.out ++ (if s.init = true ∧ s.tc.a.armed = true then [.disableTc .a] else []) ++
        (if s.init = true ∧ s.tc.b.armed = true then [.disableTc .b] else []) } := by
  unfold State.initialise
  dsimp only
  rw [State.disableArmed_eq]
  rfl

/-- The allocator's answer is taken off the draws alone (00_scope.md R9). -/
theorem State.drawRingAllocOk_snd (s : State) :
    s.drawRingAllocOk.2 = { s with draws := s.drawRingAllocOk.2.draws } := by
  unfold State.drawRingAllocOk State.bumpFree
  split <;> rfl

/-- Settles O10: INIT's checks in their order (`cmdInit_eq`), then the state it leaves (`State.initialise_eq`). -/
theorem initCommand : Obligations.InitCommand := by
  intro s
  have hexec : exec .init s = .next (cmdInit s) := rfl
  simp only [hexec, cmdInit_eq]
  have idle (h : s.init = false ∨ s.cntTotal = 0) : ¬(s.init && decide (0 < s.cntTotal.toNat)) = true := by
    obtain hinit | hzero := h
    · simp [hinit]
    · simp [hzero]
  refine ⟨fun hf => ?_, fun hf hi hbusy => ?_, fun hf hidle hring hans => ?_, fun hf hidle hring => ?_⟩
  · rw [if_pos hf]
    rfl
  · rw [if_neg (by simp [hf]), if_pos (by simp [hi, hbusy])]
    rfl
  · rw [if_neg (by simp [hf]), if_neg (idle hidle), if_neg (by simp [hring]), if_neg (by simp [hans]),
      State.drawRingAllocOk_snd]
    rfl
  · rw [if_neg (by simp [hf]), if_neg (idle hidle)]
    by_cases hhas : s.ringAllocated = true
    · refine ⟨_, congrArg _ (if_pos hhas), ?_⟩
      rw [State.initialise_eq, if_pos hhas, ← hhas]
      rfl
    · refine ⟨_, congrArg _ ((if_neg hhas).trans (if_pos (hring.resolve_left hhas))), ?_⟩
      rw [State.initialise_eq, if_neg hhas, State.drawRingAllocOk_snd]
      rfl

/-! ## Stop, transmit power, timer compare -/

/-- Settles O14: past its guard the command is `cmdStopAll_ready`. -/
theorem stopAll : Obligations.StopAll := fun g =>
  ⟨guards.1 (.stopAll g) rfl rfl nofun, fun _ hr => congrArg Host.Outcome.next (cmdStopAll_ready hr g)⟩

/-- Settles O16: past its guard the command is `cmdSetupTc_ready`. -/
theorem setupTimerCompare : Obligations.SetupTimerCompare := fun ch cb =>
  ⟨guards.1 (.setupTc ch cb) rfl rfl nofun, fun _ hr => congrArg Host.Outcome.next (cmdSetupTc_ready hr ch cb)⟩

/-- Neither TX nor ACK is in flight (R250). -/
theorem State.txQuiet_iff (s : State) : s.txQuiet = true ↔ s.inflight.tx = false ∧ s.inflight.ack = false := by
  simp [State.txQuiet]

/-- UPDATE_TX_POWER past its guard (R250). -/
theorem exec_updateTxPower {s : State} (hr : s.ready) (v : Half) : exec (.updateTxPower v) s = .next
    (if s.txQuiet then (s.applyPower v).result .ok
    else { s with txPowerPend := v, txPowerPendValid := true, res := 0x00000001 }) := by
  change Host.Outcome.next (s.guardCmd _) = _
  rw [State.guardCmd_ready hr.1 hr.2]
  rfl

/-- Settles O15: the power is applied while neither TX nor ACK is in flight (`State.txQuiet_iff`), else kept pending. -/
theorem updateTransmitPower : Obligations.UpdateTransmitPower := by
  intro v
  refine ⟨guards.1 (.updateTxPower v) rfl rfl nofun, fun s hr => ⟨fun htx hack => ?_, fun hbusy => ?_⟩⟩
  · rw [exec_updateTxPower hr, if_pos (s.txQuiet_iff.mpr ⟨htx, hack⟩)]
    rfl
  · have hnot : ¬s.txQuiet = true := by
      rw [State.txQuiet_iff]
      obtain htx | hack := hbusy
      · simp [htx]
      · simp [hack]
    rw [exec_updateTxPower hr, if_neg hnot]

end Sys2Proof.Machine
end

section
/-!
PROOFS. O24, O25, O26: the terminal events, the ends of the commands and the statuses a chain is left in
(40_scheduler.md R251, R260 to R267; 41_rx_frame_fsm.md R362).
-/

namespace Sys2Proof.Machine

/-! ## The ends of RX, TX and ACK (O25) -/

/-- txEnd as the rule words it (R265): the duty-cycle record leaves the transmit context alone. -/
theorem State.txEnd_eq (s : State) (kind : EndKind) : s.txEnd kind =
    (if kind = .done ∧ s.desc.tx.status = .done then
      (if s.txAckReq = true then { s.dcRecordInternal s.txDur with ackWait := true, ackWaitSeq := s.txSeq }
        else s.dcRecordInternal s.txDur)
      else s).applyPendingPower := by
  unfold State.txEnd
  simp

theorem State.applyPendingPower_eq (s : State) : s.applyPendingPower =
    if s.txPowerPendValid = true ∧ s.inflight.tx = false ∧ s.inflight.ack = false then
      { s with
        out := s.out ++ [.setTxPower s.txPowerPend]
        txPowerCur := s.txPowerPend
        txPowerCurValid := true
        txPowerPendValid := false }
    else s := by
  simp only [State.applyPendingPower, Bool.and_eq_true, State.txQuiet, Bool.not_eq_true']
  rfl

/-- Settles O25: RX and ACK end by definition, the pending power by `State.applyPendingPower_eq` and TX by
`State.txEnd_eq`. -/
theorem commandEnds : Obligations.CommandEnds := fun s kind =>
  ⟨rfl, s.applyPendingPower_eq, s.txEnd_eq kind, rfl⟩

/-! ## The terminal events (O24) -/

/-- retire(p, m) as the rule words it (R260). -/
theorem State.retire_eq (s : State) (p : Slot) (m : List Slot) : s.retire p m = { s with
    inflight := s.inflight.setAll false m
    cntTotal := s.cntTotal - 1
    cntRx := if p = .rx then s.cntRx - 1 else s.cntRx
    out := s.out ++ if s.cntTotal = 1 then [.powerVote .allow] else [] } := by
  have hone : s.cntTotal - 1 = 0 ↔ s.cntTotal = 1 := by bv_omega
  unfold State.retire
  dsimp only
  by_cases hlast : s.cntTotal - 1 = 0
  · rw [if_pos hlast, if_pos (hone.mp hlast)]
    rfl
  · rw [if_neg hlast, if_neg (fun h => hlast (hone.mpr h)), List.append_nil]

/-- A terminal event of a principal runs the principal's rule (R261, R263, R264). -/
theorem exec_endEvent {s : State} (hr : s.ready) {p : Slot} (hp : p ∈ principals) (kind : EndKind) :
    exec (endEvent kind (handleOf p)) s = .next (s.terminal p kind) := by
  have hslot : slotOfNum (handleOf p).toNat = some p := by cases p <;> rfl
  have hmask : p.eventMask.getLsbD 4 = true ∧ p.eventMask.getLsbD 5 = true ∧ p.eventMask.getLsbD 6 = true := by
    obtain rfl | rfl | rfl | rfl := mem_principals.mp hp <;> decide
  obtain ⟨hdone, hstopped, hpreempted⟩ := hmask
  cases kind
  case done => exact (exec_oneBitEvent hr hslot (b := 4) (by decide)).trans (congrArg _ (if_pos hdone))
  case stopped => exact (exec_oneBitEvent hr hslot (b := 5) (by decide)).trans (congrArg _ (if_pos hstopped))
  case preempted => exact (exec_oneBitEvent hr hslot (b := 6) (by decide)).trans (congrArg _ (if_pos hpreempted))

/-- Settles O24: the principal's rule (`exec_endEvent`), which writes statuses, retires the chain
(`State.retire_eq`) and runs the principal's own end. -/
theorem terminalEvents : Obligations.TerminalEvents := by
  refine ⟨fun kind handle => ?_, fun s p kind hr hp => ⟨fun hfree => ?_, fun hin => ?_⟩⟩
  · cases kind <;> exact guardedEvt_of_deliverEvent fun _ => rfl
  · rw [exec_endEvent hr hp, State.terminal, if_neg (by simp [hfree])]
  · obtain ⟨htotal, hrx, hout⟩ : (s.memberStatuses (s.inflightChain p) kind).cntTotal = s.cntTotal ∧
        (s.memberStatuses (s.inflightChain p) kind).cntRx = s.cntRx ∧
        (s.memberStatuses (s.inflightChain p) kind).out = s.out := by simp
    rw [exec_endEvent hr hp, State.terminal, if_pos hin]
    dsimp only
    rw [State.retire_eq, htotal, hrx, hout]
    obtain rfl | rfl | rfl | rfl := mem_principals.mp hp <;> rfl

/-! ## The statuses of a chain (O26) -/

/-- What R262 asks of the statuses a terminal event of kind `kind` leaves in a chain: none is ACTIVE, behind the first
that is not DONE all are IDLE, and a chain that was stopped or preempted did not end DONE. -/
def LegalStatuses (kind : EndKind) (st : List CmdStatus) : Prop :=
  (∀ x ∈ st, x ≠ .active) ∧
    (∀ (i j : Nat) (x : CmdStatus), i < j → st[i]? = some x → x ≠ .done → ∀ y, st[j]? = some y → y = .idle) ∧
    (kind ≠ .done → st.getLast? ≠ some .done)

/-- A first member that is DONE leaves the rule to those behind it. -/
theorem legalStatuses_done_cons {kind : EndKind} {st : List CmdStatus} (hst : st ≠ []) :
    LegalStatuses kind (.done :: st) ↔ LegalStatuses kind st := by
  obtain ⟨y, rest, rfl⟩ := List.exists_cons_of_ne_nil hst
  refine and_congr (by simp) (and_congr ⟨fun h i j x hij => ?_, fun h i j x hij => ?_⟩ (by simp))
  · exact h (i + 1) (j + 1) x (by omega)
  · cases i with
    | zero => exact fun hx hne => absurd (Option.some.inj hx).symm hne
    | succ i =>
      obtain ⟨j, rfl⟩ : ∃ j', j = j' + 1 := ⟨j - 1, by omega⟩
      exact h i j x (by omega)

/-- A first member that is not DONE has IDLE ones behind it alone. -/
theorem legalStatuses_cons_of_ne {kind : EndKind} {x : CmdStatus} {st : List CmdStatus} (hx : x ≠ .done) :
    LegalStatuses kind (x :: st) ↔ x ≠ .active ∧ ∀ y ∈ st, y = .idle := by
  constructor
  · rintro ⟨hactive, hidle, -⟩
    refine ⟨hactive x (by simp), fun y hy => ?_⟩
    obtain ⟨j, hj⟩ := List.mem_iff_getElem?.mp hy
    exact hidle 0 (j + 1) x (by omega) rfl hx y hj
  · rintro ⟨hactive, hidle⟩
    refine ⟨fun y hy => ?_, fun i j z hij _ _ y hy => ?_, fun _ hlast => ?_⟩
    · obtain rfl | hy := List.mem_cons.mp hy
      · exact hactive
      · simp [hidle y hy]
    · obtain ⟨j, rfl⟩ : ∃ j', j = j' + 1 := ⟨j - 1, by omega⟩
      exact hidle y (List.mem_of_getElem? hy)
    · obtain rfl | hmem := List.mem_cons.mp (List.mem_of_getLast? hlast)
      · exact hx rfl
      · simpa using hidle .done hmem

/-- A chain of one member may end DONE unless it was stopped or preempted. -/
theorem legalStatuses_singleton_done {kind : EndKind} : LegalStatuses kind [.done] ↔ kind = .done := by
  refine ⟨fun h => by_contra fun hk => h.2.2 hk rfl, fun hk => ⟨by simp, fun i j x hij _ _ y hy => ?_, absurd hk⟩⟩
  obtain ⟨j, rfl⟩ : ∃ j', j = j' + 1 := ⟨j - 1, by omega⟩
  simp at hy

theorem length_chainStatuses (n : Nat) (kind : EndKind) (d : MemberDraw) : (chainStatuses n kind d).length = n := by
  unfold chainStatuses
  dsimp only
  split <;> split_ifs <;> simp <;> omega

theorem chainStatuses_none (n : Nat) (kind : EndKind) (err : Bool) :
    chainStatuses (n + 1) kind ⟨0, err⟩ = (if err then .error else .idle) :: List.replicate n .idle := by
  simp [chainStatuses]

theorem chainStatuses_some (n : Nat) (kind : EndKind) (done : Nat) (err : Bool) :
    chainStatuses (n + 2) kind ⟨done + 1, err⟩ = .done :: chainStatuses (n + 1) kind ⟨done, err⟩ := by
  cases kind <;> simp [chainStatuses, Nat.add_min_add_right, List.replicate_succ]

theorem chainStatuses_one_done (done : Nat) (err : Bool) : chainStatuses 1 .done ⟨done + 1, err⟩ = [.done] := by
  simp [chainStatuses]

theorem chainStatuses_one_of_ne {kind : EndKind} (hk : kind ≠ .done) (done : Nat) (err : Bool) :
    chainStatuses 1 kind ⟨done, err⟩ = chainStatuses 1 kind ⟨0, err⟩ := by
  cases kind <;> simp_all [chainStatuses]

theorem legalStatuses_chainStatuses (kind : EndKind) (err : Bool) :
    ∀ (n done : Nat), LegalStatuses kind (chainStatuses (n + 1) kind ⟨done, err⟩)
  | n, 0 => by
    rw [chainStatuses_none]
    exact (legalStatuses_cons_of_ne (by split <;> simp)).mpr
      ⟨by split <;> simp, fun y hy => List.eq_of_mem_replicate hy⟩
  | 0, done + 1 => by
    by_cases hk : kind = .done
    · subst hk
      rw [chainStatuses_one_done]
      exact legalStatuses_singleton_done.mpr rfl
    · rw [chainStatuses_one_of_ne hk]
      exact legalStatuses_chainStatuses kind err 0 0
  | n + 1, done + 1 => by
    rw [chainStatuses_some, legalStatuses_done_cons (List.ne_nil_of_length_eq_add_one (length_chainStatuses _ _ _))]
    exact legalStatuses_chainStatuses kind err n done

theorem exists_chainStatuses {kind : EndKind} : ∀ {st : List CmdStatus}, st ≠ [] → LegalStatuses kind st →
    ∃ d, chainStatuses st.length kind d = st
  | [], hst, _ => absurd rfl hst
  | x :: st, _, h => by
    by_cases hx : x = .done
    · subst hx
      cases st with
      | nil =>
        obtain rfl := legalStatuses_singleton_done.mp h
        exact ⟨⟨1, false⟩, chainStatuses_one_done 0 false⟩
      | cons y st =>
        obtain ⟨⟨done, err⟩, hd⟩ := exists_chainStatuses (by simp) ((legalStatuses_done_cons (by simp)).mp h)
        exact ⟨⟨done + 1, err⟩, (chainStatuses_some st.length kind done err).trans (congrArg _ hd)⟩
    · obtain ⟨hactive, hidle⟩ := (legalStatuses_cons_of_ne hx).mp h
      refine ⟨⟨0, decide (x = .error)⟩, ?_⟩
      rw [List.length_cons, chainStatuses_none, ← List.eq_replicate_of_mem hidle]
      cases x <;> simp_all

/-- Writing statuses touches no other slot (R262). -/
theorem PerSlot.get_setStatuses_of_notMem {x : Slot} : ∀ (m : PerSlot Desc) {l : List Slot} (vs : List CmdStatus),
    x ∉ l → (m.setStatuses l vs).get x = m.get x
  | _, [], _, _ => rfl
  | _, _ :: _, [], _ => rfl
  | m, y :: l, v :: vs, hx => by
    obtain ⟨hxy, hxl⟩ := not_or.mp (fun h => hx (List.mem_cons.mpr h))
    rw [PerSlot.setStatuses, PerSlot.get_setStatuses_of_notMem _ vs hxl, PerSlot.get_set, if_neg hxy]

/-- Each slot of a list gets its status (R262). -/
theorem PerSlot.get_setStatuses : ∀ (m : PerSlot Desc) {l : List Slot} {vs : List CmdStatus}, l.Nodup →
    vs.length = l.length → ∀ (i : Nat) (x : Slot), l[i]? = some x →
      (m.setStatuses l vs).get x = { m.get x with status := vs.getD i .idle }
  | _, [], _, _, _, _, _, hi => by simp at hi
  | _, _ :: _, [], _, hlen, _, _, _ => by simp at hlen
  | m, y :: l, v :: vs, hnodup, hlen, i, x, hi => by
    obtain ⟨hy, hl⟩ := List.nodup_cons.mp hnodup
    cases i with
    | zero =>
      obtain rfl : y = x := Option.some.inj hi
      rw [PerSlot.setStatuses, PerSlot.get_setStatuses_of_notMem _ vs hy, PerSlot.get_set, if_pos rfl]
      rfl
    | succ i =>
      have hne : x ≠ y := fun h => hy (h ▸ List.mem_of_getElem? hi)
      rw [PerSlot.setStatuses, PerSlot.get_setStatuses _ hl (Nat.succ.inj hlen) i x hi, PerSlot.get_set, if_neg hne]
      rfl

/-- The statuses are taken off the draws alone (00_scope.md R9). -/
theorem State.drawMembers_snd (s : State) : s.drawMembers.2 = { s with draws := s.drawMembers.2.draws } := by
  unfold State.drawMembers State.bumpFree
  split <;> rfl

/-- Settles O26: the lists drawn are legal (`legalStatuses_chainStatuses`), each legal list is drawn
(`exists_chainStatuses`), and the members get theirs (`PerSlot.get_setStatuses`). -/
theorem memberStatuses : Obligations.MemberStatuses := by
  refine ⟨fun n kind d hn => ⟨length_chainStatuses n kind d, ?_⟩, fun kind st hst h => exists_chainStatuses hst h,
    fun s m kind hm => ⟨?_, fun i x hi => ?_, fun x hx => ?_⟩⟩
  · obtain ⟨n, rfl⟩ := Nat.exists_eq_add_one.mpr hn
    exact legalStatuses_chainStatuses kind d.err n d.done
  · rw [State.memberStatuses_eq, State.drawMembers_snd]
  · rw [State.memberStatuses_eq, State.drawMembers_snd]
    exact PerSlot.get_setStatuses s.desc hm (length_chainStatuses ..) i x hi
  · rw [State.memberStatuses_eq, State.drawMembers_snd]
    exact PerSlot.get_setStatuses_of_notMem s.desc _ hx

end Sys2Proof.Machine
end

section
/-!
PROOFS. O31: the discard of a frame and what it is made of (10_state.md R55; 41_rx_frame_fsm.md R302 to R304).
-/

namespace Sys2Proof.Machine

/-- The saturating increment as a number (10_state.md R55). -/
theorem saturate_eq (v : BitVec 16) : saturate v = if v = 0xFFFF then 0xFFFF else BitVec.ofNat 16 (v.toNat + 1) := by
  unfold saturate
  split_ifs with hmax
  · exact hmax
  · exact BitVec.eq_of_toNat_eq (by simp)

/-- flushEntry(k) (R302). -/
theorem State.flushEntry_eq (s : State) (k : BitVec 4) : s.flushEntry k = { s with
    ring := s.ring.set k.toNat ⟨.pending, 0⟩
    rdIdx := if s.rdIdx = k then BitVec.ofNat 4 ((k.toNat + 1) % s.cfg.ringN) else s.rdIdx
    out := s.out ++ [.flushEntry k] } := by
  unfold State.flushEntry State.setEntry State.emit
  dsimp only
  split_ifs <;> rfl

/-- cancelAck() (R304). -/
theorem State.cancelAck_eq (s : State) : s.cancelAck = { s with
    out := s.out ++ (if s.pf.ackArmed = true ∧ s.ackQueued = true then [.abort .ack] else [])
    ackQueued := if s.pf.ackArmed = true then false else s.ackQueued
    pf := { s.pf with ackArmed := false } } := by
  unfold State.cancelAck State.emit
  cases harmed : s.pf.ackArmed
  · simp
  · cases hqueued : s.ackQueued <;> simp [hqueued]

/-- Settles O31: each operation is one update of the state, and the discard runs them in turn. -/
theorem discardAndFlush : Obligations.DiscardAndFlush := by
  intro s r k
  refine ⟨?_, s.flushEntry_eq k, s.cancelAck_eq, rfl⟩
  rw [← saturate_eq]
  rfl

end Sys2Proof.Machine
end

section
/-!
PROOFS. O28, O29, O30: the frame events (41_rx_frame_fsm.md R305, R345, R360, R361).
-/

namespace Sys2Proof.Machine

/-- A frame event of RX runs its rule: RX's mask holds its bit (30_encoding.md R161, R189). -/
theorem exec_frameEvent {s : State} (hr : s.ready) {b : Nat} (hb : b < 4) :
    exec (oneBitEvent 2 b) s = .next (s.bitRule .rx b) := by
  have hmask : Slot.rx.eventMask.getLsbD b = true := by interval_cases b <;> rfl
  rw [exec_oneBitEvent hr (x := .rx) rfl (by omega), State.eventBit, if_pos hmask]

/-- An end event of no started frame (R345, R360). -/
theorem State.unexpectedEnd_eq (s : State) : s.unexpectedEnd =
    if (s.entry s.rdIdx).status = .full then (s.count .unexpectedEvent).flushEntry s.rdIdx
    else s.count .unexpectedEvent := by
  simp only [State.unexpectedEnd, State.entryFull, decide_eq_true_eq]
  rfl

theorem State.haltedToIdle_of_halted {s : State} (h : s.rxState = .halted) :
    s.haltedToIdle = { s with rxState := .idle } := if_pos h

/-- A frame is mid-decode exactly when the receive machine neither waits for one nor has dropped it (00_scope.md R13). -/
theorem RxState.midDecode_iff (x : RxState) : x.midDecode = true ↔ x ≠ .idle ∧ x ≠ .halted := by
  cases x <;> decide

/-- FRAME_OK in a mid-decode state (R345). -/
theorem State.frameOkEvent_of_midDecode {s : State} (h : s.rxState.midDecode = true) : s.frameOkEvent = s.endFrame := by
  obtain ⟨hidle, hhalted⟩ := (RxState.midDecode_iff _).mp h
  unfold State.frameOkEvent
  split
  · exact absurd ‹_› hidle
  · exact absurd ‹_› hhalted
  all_goals rfl

/-- Settles O28. -/
theorem preambleEvent : Obligations.PreambleEvent := by
  refine ⟨guardedEvt_of_deliverEvent fun _ => rfl, fun s hr => ?_⟩
  rw [show exec (.evtPreamble 2 0) s = .next s.preambleEvent from exec_frameEvent hr (b := 0) (by decide),
    State.preambleEvent]
  refine ⟨fun hrx => ?_, fun hrx hmid => ?_, fun hrx hmid => ?_⟩
  · rw [if_neg (by simp [hrx])]
  · rw [if_pos hrx, if_neg (by simp [hmid])]
    rfl
  · rw [if_pos hrx, if_pos hmid]
    rfl

/-- Settles O29: in IDLE the event is unexpected, in HALTED it closes a discarded frame, mid-decode it is
`State.endFrame`. -/
theorem frameOkEvent : Obligations.FrameOkEvent := by
  refine ⟨guardedEvt_of_deliverEvent fun _ => rfl, fun s hr => ?_⟩
  rw [show exec (.evtFrameOk 2 0) s = .next s.frameOkEvent from exec_frameEvent hr (b := 1) (by decide)]
  refine ⟨fun hidle => ?_, fun hhalted => ?_, fun hmid => ?_⟩
  · rw [State.frameOkEvent, hidle, ← State.unexpectedEnd_eq]
  · rw [State.frameOkEvent, hhalted, ← State.haltedToIdle_of_halted hhalted]
  · rw [State.frameOkEvent_of_midDecode hmid]
    rfl

/-- Settles O30. -/
theorem abnormalFrameEnds : Obligations.AbnormalFrameEnds := by
  refine ⟨guardedEvt_of_deliverEvent fun _ => rfl, guardedEvt_of_deliverEvent fun _ => rfl, fun s hr => ?_⟩
  rw [show exec (.evtBadCrc 2 0) s = .next s.badCrcEvent from exec_frameEvent hr (b := 2) (by decide),
    show exec (.evtBufFull 2 0) s = .next s.bufFullEvent from exec_frameEvent hr (b := 3) (by decide)]
  unfold State.badCrcEvent State.bufFullEvent
  refine ⟨fun hidle => ?_, fun hidle => ?_, fun hhalted => ?_, fun hhalted => ?_, fun hmid => ?_, fun hmid => ?_⟩
  · rw [if_neg (by simp [hidle, RxState.midDecode]), if_pos hidle, State.unexpectedEnd_eq]
  · rw [if_neg (by simp [hidle, RxState.midDecode]), if_pos hidle]
  · rw [if_neg (by simp [hhalted, RxState.midDecode]), if_neg (by simp [hhalted]),
      State.haltedToIdle_of_halted hhalted]
  · rw [if_neg (by simp [hhalted, RxState.midDecode]), if_neg (by simp [hhalted]),
      State.haltedToIdle_of_halted hhalted]
  · rw [if_pos hmid]
    rfl
  · rw [if_pos hmid]
    rfl

end Sys2Proof.Machine
end

section
/-!
PROOFS. O43: when the PARSER is enabled (41_rx_frame_fsm.md R364), from when each stage is; and the frame bytes the
stages read.
-/

namespace Sys2Proof.Machine

/-! ## Bytes as read -/

/-- A 16-bit field is its two bytes, the low one first (20_memory.md R101). -/
theorem State.ofNat_ringLe_two (s : State) (k : BitVec 4) (off : Nat) :
    BitVec.ofNat 16 (s.ringLe k off 2) = s.ringByte k (off + 1) ++ s.ringByte k off := by
  have hlow := (s.ringByte k off).isLt
  have hhigh := (s.ringByte k (off + 1)).isLt
  apply BitVec.eq_of_toNat_eq
  rw [toNat_append_add, BitVec.toNat_ofNat]
  simp only [State.ringLe, State.ringBytes, leNat]
  omega

/-- The frame control field as read (R307). -/
theorem State.curFcf_eq (s : State) : s.curFcf = fcfRead s.cfg.frameVersion
    (s.ringByte s.curEntry 3 ++ s.ringByte s.curEntry 2) := by
  rw [State.curFcf, State.ofNat_ringLe_two]

/-- Before frame version 2 the sequence number is always there (R307). -/
theorem fcfSeqLen_fcfRead (v : BitVec 2) (raw : Half) :
    fcfSeqLen (fcfRead v raw) = if ¬v.toNat < 2 ∧ raw.getLsbD 8 = true then 0 else 1 := by
  unfold fcfSeqLen fcfSeqSuppressed fcfRead
  by_cases hv : v.toNat < 2 <;> simp [hv]

theorem toNat_secKeyIdMode (sc : Byte) : (secKeyIdMode sc).toNat = sc.toNat / 8 % 4 := by
  simp [secKeyIdMode, Nat.shiftRight_eq_div_pow]

theorem keyIdLen_eq (mode : BitVec 2) : keyIdLen mode = [0, 1, 5, 9].getD mode.toNat 0 := by
  revert mode
  decide

/-- The length of the auxiliary security header (R330). -/
theorem auxLen_eq (sc : Byte) :
    auxLen sc = 1 + (if sc.getLsbD 5 then 0 else 4) + [0, 1, 5, 9].getD (sc.toNat / 8 % 4) 0 := by
  rw [auxLen, keyIdLen_eq, toNat_secKeyIdMode]
  rfl

/-! ## The stage of each receive state (R301) -/

section
variable {s : State}

theorem State.stageStep_started (h : s.rxState = .started) : s.stageStep = s.hdrStep := by rw [State.stageStep, h]

theorem State.stageStep_addr (h : s.rxState = .addr) : s.stageStep = s.addrStep := by rw [State.stageStep, h]

theorem State.stageStep_secHdr (h : s.rxState = .secHdr) : s.stageStep = s.secHdrStep := by rw [State.stageStep, h]

theorem State.stageStep_payload (h : s.rxState = .payload) : s.stageStep = s.payloadStep := by rw [State.stageStep, h]

/-- The other states wait for an event. -/
theorem State.stageStep_waiting (h : s.rxState = .idle ∨ s.rxState = .trailer ∨ s.rxState = .halted) :
    s.stageStep = s := by
  obtain h | h | h := h <;> rw [State.stageStep, h]

end

/-! ## When each stage is enabled -/

theorem State.entryFull_iff (s : State) (k : BitVec 4) : s.entryFull k = true ↔ (s.entry k).status = .full :=
  decide_eq_true_iff

theorem State.enabled_parser_iff (s : State) :
    s.enabled .parser = true ↔ s.init = true ∧ s.fatal = false ∧ s.stageReady = true := by
  simp [State.enabled, State.running, and_assoc]

/-- The HDR step is enabled (R306). -/
theorem State.hdrReady_iff (s : State) : s.hdrReady = true ↔
    (s.entry s.curEntry).status = .full ∨
      (4 ≤ s.rxCount s.curEntry ∧ 4 + fcfSeqLen s.curFcf ≤ s.rxCount s.curEntry) := by
  simp [State.hdrReady, State.entryFull_iff, State.curFcf]

/-- The ADDR step is enabled (R313). -/
theorem State.addrReady_iff (s : State) : s.addrReady = true ↔
    (s.entry s.curEntry).status = .full ∨ 2 + s.pf.mhrBase.toNat ≤ s.rxCount s.curEntry := by
  simp [State.addrReady, State.entryFull_iff]

/-- The SECHDR step is enabled (R331). -/
theorem State.secHdrReady_iff (s : State) : s.secHdrReady = true ↔
    (s.entry s.curEntry).status = .full ∨ 2 + s.pf.mpduLen.toNat ≤ s.rxCount s.curEntry ∨
      (3 + s.pf.mhrBase.toNat ≤ s.rxCount s.curEntry ∧
        2 + s.pf.mhrBase.toNat + auxLen s.secControlByte ≤ s.rxCount s.curEntry) := by
  simp [State.secHdrReady, State.entryFull_iff, or_assoc]

/-- The PAYLOAD step is enabled (R340). -/
theorem State.payloadReady_iff (s : State) : s.payloadReady = true ↔
    (s.entry s.curEntry).status = .full ∨ 2 + s.pf.mpduLen.toNat ≤ s.rxCount s.curEntry := by
  simp [State.payloadReady, State.entryFull_iff]

/-- Settles O43: each row of the table is the enabling of its stage, and the other states have none. -/
theorem parserEnabled : Obligations.ParserEnabled := by
  intro s k n isFull raw seqLen rawSc sc aux
  have hseq : fcfSeqLen s.curFcf = seqLen := by rw [State.curFcf_eq, fcfSeqLen_fcfRead]
  have haux : auxLen s.secControlByte = aux := auxLen_eq _
  rw [State.enabled_parser_iff, State.stageReady]
  cases hstate : s.rxState with
  | started => simp [State.hdrReady_iff, hseq, isFull, n, k]
  | addr => simp [State.addrReady_iff, isFull, n, k]
  | secHdr => simp [State.secHdrReady_iff, haux, isFull, n, k]
  | payload => simp [State.payloadReady_iff, isFull, n, k]
  | idle | trailer | halted => simp

end Sys2Proof.Machine
end

section
/-!
PROOFS. O33, O35: the address-field table, the frame filter and the acknowledgment predicates (41_rx_frame_fsm.md R310
to R314, R320).
-/

namespace Sys2Proof.Machine

/-- Settles O33: both functions read the two modes and the compression bit alone, and the rows list what they give. -/
theorem addressFieldTable : Obligations.AddressFieldTable := by
  intro row hrow f hdam hsam hidc
  simp only [addrFieldLen, panPresence, fcfDam, fcfSam, fcfPanIdc, hdam, hsam, hidc]
  clear hdam hsam hidc f
  revert row
  decide

theorem State.panPasses_iff (s : State) : s.panPasses = true ↔
    ¬(s.pf.dstPanPresent = true ∧ s.pf.dstPan ≠ s.fPan ∧ s.pf.dstPan ≠ 0xFFFF) := by
  cases hpan : s.pf.dstPanPresent <;> simp [State.panPasses, hpan, or_iff_not_imp_left]

/-- A frame with no destination address is for the PAN coordinator, unless it is a beacon or an acknowledgment (R314). -/
theorem State.addrPasses_of_absent {s : State} (h : s.pf.dstMode = 0) : s.addrPasses = true ↔
    (fcfType s.pf.fcf = 0 ∨ fcfType s.pf.fcf = 2) ∨
      s.panCoord = true ∧ (s.pf.srcPanPresent = false ∨ s.pf.srcPan = s.fPan) := by
  have hrole : s.addrPasses = (decide (fcfType s.pf.fcf = typeBeacon) || decide (fcfType s.pf.fcf = typeAck) ||
      (s.panCoord && (!s.pf.srcPanPresent || decide (s.pf.srcPan = s.fPan)))) := by
    rw [State.addrPasses, h]
    rfl
  simp only [hrole, Bool.or_eq_true, Bool.and_eq_true, Bool.not_eq_true', decide_eq_true_eq]
  rfl

/-- The destination address passes, mode by mode (R314). -/
theorem State.addrPasses_iff {s : State} (h : s.pf.dstMode ≠ 1) : s.addrPasses = true ↔
    ¬(s.pf.dstMode = 2 ∧ s.pf.dstAddr ≠ s.fShort.setWidth 64 ∧ s.pf.dstAddr ≠ 0xFFFF) ∧
      ¬(s.pf.dstMode = 3 ∧ s.pf.dstAddr ≠ s.fExt) ∧
      ¬(s.pf.dstMode = 0 ∧ fcfType s.pf.fcf ≠ 0 ∧ fcfType s.pf.fcf ≠ 2 ∧
        ¬(s.panCoord = true ∧ (s.pf.srcPanPresent = false ∨ s.pf.srcPan = s.fPan))) := by
  have hmodes : ∀ m : BitVec 2, m ≠ 1 → m = 0 ∨ m = 2 ∨ m = 3 := by decide
  obtain hm | hm | hm := hmodes _ h
  · simp only [State.addrPasses_of_absent hm, hm]
    tauto
  · simp [State.addrPasses, hm, or_iff_not_imp_left]
  · simp [State.addrPasses, hm]

theorem State.filterPass_iff (s : State) : s.filterPass = true ↔
    s.fPromisc = true ∨
      (s.fAllow.getLsbD (fcfType s.pf.fcf).toNat = true ∧ s.panPasses = true ∧ s.addrPasses = true) := by
  simp [State.filterPass, and_assoc]

/-- Settles O35. -/
theorem filterAndAckPredicates : Obligations.FilterAndAckPredicates := by
  intro s t
  refine ⟨fun hmode => ?_, ?_, ?_⟩
  · rw [State.filterPass_iff, State.panPasses_iff, State.addrPasses_iff hmode]
    rfl
  · simp only [State.enhAckRequired, Bool.and_eq_true, Bool.or_eq_true, Bool.not_eq_true', decide_eq_true_eq, and_assoc]
    rfl
  · simp only [State.ackNeeded, Bool.and_eq_true, Bool.not_eq_true', Bool.not_eq_true, decide_eq_true_eq, and_assoc]
    rfl

end Sys2Proof.Machine
end

section
/-!
PROOFS. O36: the submissions of acknowledgments (30_encoding.md R187, R203; 41_rx_frame_fsm.md R321, R322, R353).
-/

namespace Sys2Proof.Machine

/-- ACK param0 as a number (R187). -/
theorem ackParam_eq (seq : Byte) (fp enhanced : Bool) :
    ackParam seq fp enhanced = BitVec.ofNat 32 (seq.toNat + 256 * fp.toNat + 512 * enhanced.toNat) := by
  apply eq_ofNat_of_toNat
  simp only [ackParam, toNat_append_add, BitVec.toNat_ofBool, BitVec.ofNat_eq_ofNat, BitVec.toNat_ofNat]
  omega

/-- The three bytes of an immediate ACK as a number (R203). -/
theorem immAckParam_eq (fp : Bool) (version : BitVec 2) (seq : Byte) : immAckParam fp version seq =
    BitVec.ofNat 32 (2 + 16 * fp.toNat + 256 * (16 * version.toNat) + 65536 * seq.toNat) := by
  have hbyte : (ackByte0 fp).toNat = 2 + 16 * fp.toNat := by cases fp <;> rfl
  apply eq_ofNat_of_toNat
  simp only [immAckParam, ackByte1, toNat_append_add, hbyte, BitVec.ofNat_eq_ofNat, BitVec.toNat_ofNat]
  omega

theorem State.drawAckStart_snd (s : State) : s.drawAckStart.2 = { s with draws := s.drawAckStart.2.draws } := by
  unfold State.drawAckStart State.bumpFree
  split <;> rfl

theorem State.drawEnhAckIEs_snd (s : State) : s.drawEnhAckIEs.2 = { s with draws := s.drawEnhAckIEs.2.draws } := by
  unfold State.drawEnhAckIEs State.bumpFree
  split <;> rfl

/-- The state after an ACK's submission with parameters `p` and `q`, started at `start`; `u` is the state whose draws
hold the radio's answer (R321, R353). -/
def State.ackSubmitted (s u : State) (start p q : Word) : State := { s with
  draws := u.drawAccept.2.draws
  desc := { s.desc with ack := ⟨.idle, .absTime, start, none, .never, p, q⟩ }
  out := s.out ++ [.submit .ack .ack 0x70 (some start)] }

/-- An ACK's start time is drawn, its descriptor built, and the radio answers (R321). -/
theorem State.submitAck_eq_ackSubmitted (s : State) (p q : Word) : s.submitAck p q =
    (s.drawAckStart.2.drawAccept.1, s.ackSubmitted s.drawAckStart.2 s.drawAckStart.1 p q) := by
  obtain ⟨hanswer, hdraws⟩ := State.drawAccept_congr (s := s.drawAckStart.2)
    (t := s.drawAckStart.2.build .ack .absTime none .never p q s.drawAckStart.1) rfl
  rw [State.submitAck_eq, State.submit_eq, hanswer, hdraws]
  have hframe := congrArg (State.ackSubmitted · s.drawAckStart.2 s.drawAckStart.1 p q) s.drawAckStart_snd
  exact congrArg (Prod.mk _) hframe

/-- ackAccepted() (R322). -/
theorem State.onAccepted_ack_eq (s : State) : s.onAccepted .ack [.ack] = { s with
    out := s.out ++ s.holdVote
    inflight := { s.inflight with ack := true }
    cntTotal := s.cntTotal + 1 } := State.onAccepted_eq s .ack [.ack]

/-- submitImmAck() with ACK not in flight (R321). -/
theorem State.submitImmAck_free {s : State} (h : s.inflight.ack = false) :
    let u := s.ackSubmitted s.drawAckStart.2 s.drawAckStart.1 (ackParam s.pf.seq s.fAckFP false)
      (immAckParam s.fAckFP s.cfg.frameVersion s.pf.seq)
    s.submitImmAck = if s.drawAckStart.2.drawAccept.1 = true then
        { u with
          out := u.out ++ s.holdVote
          inflight := { s.inflight with ack := true }
          cntTotal := s.cntTotal + 1
          ackQueued := true
          pf := { s.pf with ackArmed := true } }
      else u.count .ackRejected := by
  rw [State.submitImmAck_eq, if_neg (by simp [h]), State.submitAck_eq_ackSubmitted]
  dsimp only
  rw [State.onAccepted_ack_eq]
  rfl

/-- submitEnhAck() with ACK not in flight (R353). -/
theorem State.submitEnhAck_free {s : State} (h : s.inflight.ack = false) :
    let e := s.drawEnhAckIEs
    let u := s.ackSubmitted e.2.drawAckStart.2 e.2.drawAckStart.1 (ackParam s.pf.seq s.fAckFP true)
      (BitVec.ofNat 32 e.1.length)
    s.submitEnhAck = if e.2.drawAckStart.2.drawAccept.1 = true then
        { u with
          out := u.out ++ s.holdVote
          inflight := { s.inflight with ack := true }
          cntTotal := s.cntTotal + 1
          ackQueued := true
          pf := { s.pf with enhAckSubmitted := true } }
      else u.count .ackRejected := by
  intro e u
  obtain ⟨hpf, hfp⟩ : e.2.pf = s.pf ∧ e.2.fAckFP = s.fAckFP := by simp [e]
  have hu := congrArg (State.ackSubmitted · e.2.drawAckStart.2 e.2.drawAckStart.1 (ackParam s.pf.seq s.fAckFP true)
    (BitVec.ofNat 32 e.1.length)) s.drawEnhAckIEs_snd
  change _ = u at hu
  rw [State.submitEnhAck_eq, if_neg (by simp [h])]
  dsimp only
  rw [hpf, hfp, State.submitAck_eq_ackSubmitted, hu]
  dsimp only
  rw [State.onAccepted_ack_eq]
  rfl

/-- Settles O36: both submissions are `State.submitAck_eq_ackSubmitted`, then the radio's answer. -/
theorem ackSubmissions : Obligations.AckSubmissions := by
  intro s fp seq ackDesc
  refine ⟨fun hack => ⟨if_pos hack, if_pos hack⟩, fun hfree => ?_, fun hfree => ?_⟩
  · rw [State.submitImmAck_free hfree, ackParam_eq, immAckParam_eq]
    rfl
  · rw [State.submitEnhAck_free hfree, ackParam_eq]
    rfl

end Sys2Proof.Machine
end

section
/-!
PROOFS. O32: the HDR step (41_rx_frame_fsm.md R306 to R308).
-/

namespace Sys2Proof.Machine

/-- The PHR's length field as a number (R307). -/
theorem toNat_phrLength (b0 b1 : Byte) : (phrLength b0 b1).toNat = b0.toNat % 8 * 256 + b1.toNat := by
  rw [phrLength, toNat_append_add, BitVec.extractLsb'_toNat]
  rfl

theorem toNat_phrFcsLen (b0 : Byte) : (phrFcsLen b0).toNat = if b0.getLsbD 4 then 2 else 4 := by
  unfold phrFcsLen
  split_ifs <;> rfl

theorem State.drawAllocOk_snd (s : State) : s.drawAllocOk.2 = { s with draws := s.drawAllocOk.2.draws } := by
  unfold State.drawAllocOk State.bumpFree
  split <;> rfl

/-- The allocation takes its answer off the draws alone (R306, 00_scope.md R9). -/
theorem State.hdrAllocate_eq_draws (s : State) (b0 b1 : Byte) (fcf : Half) : s.hdrAllocate b0 b1 fcf =
    if s.drawAllocOk.1 = true then
      { s with draws := s.drawAllocOk.2.draws, pf := s.headerFrame b0 b1 fcf, rxState := .addr }
    else { s with draws := s.drawAllocOk.2.draws }.discard .allocFail := by
  rw [State.hdrAllocate_eq, State.drawAllocOk_snd]
  rfl

/-- Checks 2 to 6 of R308 in their order, each with its reason; `t` is where a header that passes goes. -/
theorem State.startedChecks_elim (s t : State) (b0 b1 : Byte) (fcf : Half) :
    (startedChecks s.cfg b0 b1 fcf).elim t s.discard =
      if s.cfg.maxFrameSize < (phrLength b0 b1).toNat ∨ (phrLength b0 b1).toNat < (phrFcsLen b0).toNat ∨
          hdrMpduLen b0 b1 < 2 + fcfSeqLen fcf then s.discard .length
      else if fcfVersion fcf ≠ s.cfg.frameVersion then s.discard .version
      else if fcfDam fcf = 1 ∨ fcfSam fcf = 1 then s.discard .addrMode
      else if fcfSecurity fcf = true ∧ s.cfg.securityEnabled = false then s.discard .secUnsupported
      else if hdrMpduLen b0 b1 < hdrMhrBase s.cfg.frameVersion fcf then s.discard .length
      else t := by
  unfold startedChecks
  split_ifs <;> rfl

/-- The HDR step's checks in their order, each with its reason, and the allocation behind them (R306, R308). -/
theorem State.hdrStep_eq (s : State) : s.hdrStep =
    let n := s.rxCount s.curEntry
    let b0 := s.ringByte s.curEntry 0
    let b1 := s.ringByte s.curEntry 1
    let fcf := s.curFcf
    if n < 2 then s.discard .length
    else if phrModeSwitch b0 = true then s.discard .modeSwitch
    else if n < 4 then s.discard .length
    else if n < 4 + fcfSeqLen fcf then s.discard .length
    else (startedChecks s.cfg b0 b1 fcf).elim (s.hdrAllocate b0 b1 fcf) s.discard := by
  unfold State.hdrStep
  dsimp only
  cases startedChecks s.cfg (s.ringByte s.curEntry 0) (s.ringByte s.curEntry 1) s.curFcf <;> rfl

/-- Settles O32: the enabling is R364's row, and `State.hdrStep_eq` with the lengths as numbers. -/
theorem headerStep : Obligations.HeaderStep := by
  intro s k n b0 phrLen fcsLen raw fcf seqLen addrLen
  have hfcf : s.curFcf = fcf := s.curFcf_eq
  have hphr : (phrLength b0 (s.ringByte k 1)).toNat = phrLen := toNat_phrLength _ _
  have hfcs : (phrFcsLen b0).toNat = fcsLen := toNat_phrFcsLen _
  have hmpdu : hdrMpduLen b0 (s.ringByte k 1) = phrLen - fcsLen := by rw [hdrMpduLen, hphr, hfcs]
  refine ⟨fun hstate => ⟨?_, State.stageStep_started hstate⟩, ?_⟩
  · rw [State.enabled_parser_iff, State.stageReady, hstate, State.hdrReady_iff, hfcf]
    rfl
  · have hphrBits : phrLength b0 (s.ringByte k 1) = BitVec.ofNat 11 phrLen := by simp [← hphr]
    have hfcsBits : phrFcsLen b0 = BitVec.ofNat 3 fcsLen := by simp [← hfcs]
    rw [State.hdrStep_eq]
    dsimp only
    rw [State.startedChecks_elim, hfcf, hphr, hfcs, hmpdu, State.hdrAllocate_eq_draws,
      State.headerFrame, hphrBits, hfcsBits, hmpdu]
    rfl

end Sys2Proof.Machine
end

section
/-!
PROOFS. O34: the ADDR step (41_rx_frame_fsm.md R313).
-/

namespace Sys2Proof.Machine

/-- A splice that fits replaces that part of the buffer. -/
theorem spliceAt_of_le {α : Type} {l new : List α} {off : Nat} (h : off + new.length ≤ l.length) :
    spliceAt l off new = l.take off ++ new ++ l.drop (off + new.length) := by
  rw [spliceAt, List.take_of_length_le]
  simp
  omega

theorem addrBytes_eq (mode : BitVec 2) : addrBytes mode = if mode = 2 then 2 else if mode = 3 then 8 else 0 := by
  revert mode
  decide

theorem two_mul_toNat (b : Bool) : 2 * b.toNat = if b = true then 2 else 0 := by cases b <;> rfl

theorem State.addrOffset_eq (s : State) : s.addrOffset = 4 + if s.pf.seqPresent = true then 1 else 0 := by
  unfold State.addrOffset
  cases s.pf.seqPresent <;> rfl

/-- A PAN ID the frame does not carry is 0 already (R313 corner case). -/
theorem ite_present_eq {present : Bool} {pan : Half} (h : present = false → pan = 0) (read : Half) :
    (if present = true then read else pan) = if present = true then read else 0 := by
  cases present <;> simp_all

/-- The filter has passed: the acknowledgment if it is needed, then the next stage (R313). -/
theorem State.addrPass_eq (s : State) : s.addrPass =
    let v := if s.ackNeeded = true then s.submitImmAck else s
    { v with
      pf := { v.pf with mhrLen := s.pf.mhrBase }
      rxState := if s.pf.fcf.getLsbD 3 then .secHdr else .payload } := by
  have hkept : (if s.ackNeeded = true then s.submitImmAck else s).pf.mhrBase = s.pf.mhrBase ∧
      (if s.ackNeeded = true then s.submitImmAck else s).pf.fcf = s.pf.fcf := by
    obtain ⟨armed, hpf⟩ := s.submitImmAck_pf
    split_ifs
    · rw [hpf]
      exact ⟨rfl, rfl⟩
    · exact ⟨rfl, rfl⟩
  obtain ⟨hbase, hfcf⟩ := hkept
  unfold State.addrPass
  dsimp only
  rw [hbase, hfcf]
  rfl

/-- The frame with its addresses read, the buffer being long enough for its header and an absent PAN ID 0 (R313). -/
theorem State.addressFrame_eq {s : State} (hlength : s.pf.mhrBase.toNat ≤ s.pf.buf.length) (hzero : s.pf.AbsentZero) :
    let k := s.curEntry
    let o1 := 4 + if s.pf.seqPresent = true then 1 else 0
    let o2 := o1 + if s.pf.dstPanPresent = true then 2 else 0
    let o3 := o2 + addrBytes s.pf.dstMode
    let o4 := o3 + if s.pf.srcPanPresent = true then 2 else 0
    s.addressFrame = { s.pf with
      dstPan := if s.pf.dstPanPresent = true then s.ringByte k (o1 + 1) ++ s.ringByte k o1 else 0
      dstAddr := BitVec.ofNat 64 (s.ringLe k o2 (addrBytes s.pf.dstMode))
      srcPan := if s.pf.srcPanPresent = true then s.ringByte k (o3 + 1) ++ s.ringByte k o3 else 0
      srcAddr := BitVec.ofNat 64 (s.ringLe k o4 (addrBytes s.pf.srcMode))
      buf := s.ringBytes k 2 s.pf.mhrBase.toNat ++ s.pf.buf.drop s.pf.mhrBase.toNat } := by
  dsimp only
  unfold State.addressFrame
  dsimp only
  rw [State.addrOffset_eq, two_mul_toNat, two_mul_toNat, State.ofNat_ringLe_two, State.ofNat_ringLe_two,
    ite_present_eq hzero.dstPan, ite_present_eq hzero.srcPan, spliceAt_of_le (by simpa using hlength)]
  simp

/-- Settles O34. -/
theorem addressStep : Obligations.AddressStep := by
  intro s hinv hstate k base width o1 o2 o3 o4 u
  have hheld : s.rxState.holdsFrame = true := by rw [hstate]; rfl
  have hlength : s.pf.mhrBase.toNat ≤ s.pf.buf.length := (hinv.buf hheld).symm ▸ (hinv.base (.inl hstate)).1
  have hu : { s with pf := s.addressFrame } = u := by
    rw [State.addressFrame_eq hlength (hinv.absent hheld)]
    simp only [addrBytes_eq]
    rfl
  refine ⟨?_, State.stageStep_addr hstate, fun hshort => if_pos hshort, fun hlong hfail => ?_, fun hlong hpass => ?_⟩
  · rw [State.enabled_parser_iff, State.stageReady, hstate, State.addrReady_iff]
  · rw [State.addrStep, if_neg (Nat.not_lt.mpr hlong), hu, if_neg (by simp [hfail])]
  · rw [State.addrStep, if_neg (Nat.not_lt.mpr hlong), hu, if_pos hpass, State.addrPass_eq]

end Sys2Proof.Machine
end

section
/-!
PROOFS. O37, O38: the SECHDR and the PAYLOAD step (41_rx_frame_fsm.md R330 to R340).
-/

namespace Sys2Proof.Machine

theorem secLevel_eq_zero_iff (sc : Byte) : secLevel sc = 0 ↔ sc.toNat % 8 = 0 := by
  rw [← BitVec.toNat_inj, secLevel, BitVec.extractLsb'_toNat]
  rfl

theorem keySourceLen_eq (mode : BitVec 2) : keySourceLen mode = [0, 0, 4, 8].getD mode.toNat 0 := by
  revert mode
  decide

/-- The MIC lengths (R332). -/
theorem micLenOf_eq (level : BitVec 3) : micLenOf level = [0, 4, 8, 16].getD (level.toNat % 4) 0 := by
  revert level
  decide

theorem toNat_secLevel (sc : Byte) : (secLevel sc).toNat = sc.toNat % 8 := by
  rw [secLevel, BitVec.extractLsb'_toNat]
  rfl

theorem secKeyIdMode_eq (sc : Byte) : secKeyIdMode sc = BitVec.ofNat 2 (sc.toNat / 8 % 4) := by
  simp [← toNat_secKeyIdMode]

theorem secKeyIdMode_eq_zero_iff (sc : Byte) : secKeyIdMode sc = 0 ↔ sc.toNat / 8 % 4 = 0 := by
  rw [← BitVec.toNat_inj, toNat_secKeyIdMode]
  rfl

/-- The frame with its security header read, the buffer having room for it (R330, R331). -/
theorem State.securityFrame_eq {s : State} {sc : Byte} (hfits : s.pf.mhrBase.toNat + auxLen sc ≤ s.pf.buf.length) :
    let k := s.curEntry
    let b := s.pf.mhrBase.toNat
    let mode := sc.toNat / 8 % 4
    let o := 2 + b + 1
    let fc := if sc.getLsbD 5 then 0 else 4
    let src := [0, 0, 4, 8].getD mode 0
    s.securityFrame sc = { s.pf with
      frameCounter := if sc.getLsbD 5 then 0 else BitVec.ofNat 32 (s.ringLe k o 4)
      keySource := BitVec.ofNat 64 (s.ringLe k (o + fc) src)
      keyIndex := if mode = 0 then 0 else s.ringByte k (o + fc + src)
      secCtl := sc
      keyIdMode := BitVec.ofNat 2 mode
      micLen := BitVec.ofNat 5 (micLenOf (secLevel sc))
      buf := s.pf.buf.take b ++ s.ringBytes k (2 + b) (auxLen sc) ++ s.pf.buf.drop (b + auxLen sc)
      mhrLen := BitVec.ofNat 11 (b + auxLen sc) } := by
  unfold State.securityFrame
  dsimp only
  rw [spliceAt_of_le (by simpa using hfits), State.length_ringBytes, keySourceLen_eq, toNat_secKeyIdMode]
  simp only [ne_eq, ite_not, secKeyIdMode_eq_zero_iff]
  rw [secKeyIdMode_eq]
  rfl

/-- Settles O37. -/
theorem securityStep : Obligations.SecurityStep := by
  intro s hinv hstate k n b mpdu raw sc level mode fc src a mic o
  have hsc : s.secControlByte = sc := rfl
  have haux : auxLen sc = a := auxLen_eq sc
  have hmode : (secKeyIdMode sc).toNat = mode := toNat_secKeyIdMode sc
  have hmic : micLenOf (secLevel sc) = mic := by rw [micLenOf_eq, toNat_secLevel]
  have hheld : s.rxState.holdsFrame = true := by rw [hstate]; rfl
  have hbuf : s.pf.buf.length = mpdu := hinv.buf hheld
  refine ⟨?_, State.stageStep_secHdr hstate, ?_⟩
  · rw [State.enabled_parser_iff, State.stageReady, hstate, State.secHdrReady_iff, hsc, haux]
  · unfold State.secHdrStep
    dsimp only
    rw [hsc, haux, hmic, hmode]
    simp only [secLevel_eq_zero_iff]
    by_cases hlen : mpdu < b + a + mic
    · rw [if_pos hlen, if_pos hlen]
    · have hfits : b + auxLen sc ≤ s.pf.buf.length := by omega
      rw [State.securityFrame_eq hfits, haux, hmic]
      rfl

/-- Settles O38: the payload fits the buffer behind its header (`State.FrameInv.mhr`). -/
theorem payloadStep : Obligations.PayloadStep := by
  intro s hinv hstate k m mpdu
  have hheld : s.rxState.holdsFrame = true := by rw [hstate]; rfl
  have hbuf : s.pf.buf.length = mpdu := hinv.buf hheld
  have hmhr : m + s.pf.micLen.toNat ≤ mpdu := hinv.mhr (.inl hstate)
  have hsplice : spliceAt s.pf.buf m (s.ringBytes k (2 + m) (mpdu - m)) =
      s.pf.buf.take m ++ s.ringBytes k (2 + m) (mpdu - m) := by
    rw [spliceAt_of_le (by simp; omega), State.length_ringBytes, List.drop_of_length_le (by omega), List.append_nil]
  refine ⟨?_, State.stageStep_payload hstate, ?_⟩
  · rw [State.enabled_parser_iff, State.stageReady, hstate, State.payloadReady_iff]
  · rw [← hsplice]
    rfl

end Sys2Proof.Machine
end

section
/-!
PROOFS. O40: the trailer and the dispatch (41_rx_frame_fsm.md R350).
-/

namespace Sys2Proof.Machine

/-- Settles O40. -/
theorem trailerDispatch : Obligations.TrailerDispatch := by
  intro s t0 u hand isAck
  unfold State.trailerAndDispatch
  refine ⟨fun hshort => if_pos hshort, fun hlong hack => ?_, fun hlong hother hies => ?_, fun hlong hother hies => ?_⟩
  · exact (if_neg (Nat.not_lt.mpr hlong)).trans (if_pos hack)
  · exact (if_neg (Nat.not_lt.mpr hlong)).trans ((if_neg hother).trans (if_neg (Bool.eq_false_iff.mp hies)))
  · exact (if_neg (Nat.not_lt.mpr hlong)).trans ((if_neg hother).trans (if_pos hies))

end Sys2Proof.Machine
end

section
/-!
PROOFS. O42: the walk over the information elements (41_rx_frame_fsm.md R352).
-/

namespace Sys2Proof.Machine

/-! ## One round of the loop -/

/-- The descriptor at offset `o`, low byte first. -/
def ieDescriptor (buf : List Byte) (o : Nat) : Nat := (buf.getD o 0).toNat + 256 * (buf.getD (o + 1) 0).toNat

theorem ieType_ieDescriptor (buf : List Byte) (o : Nat) :
    ieType (ieDescriptor buf o) = ieDescriptor buf o / 2 ^ 15 := by
  unfold ieType ieDescriptor
  omega

/-- The part of the list a round is in, by the rule's "part = HEADER". -/
def IePart.ofHeader (header : Bool) : IePart := if header then .header else .payload

/-- One round of R352 at offset `o` with descriptor `d`, `n` bytes located so far; `next` is the rest of the walk. -/
def ieRound (stop : Nat) (secured : Bool) (next : Nat → Nat → Bool → IeResult) (d o n : Nat) (header : Bool) :
    IeResult :=
  if o = stop then ieFinish n
  else if stop < o + 2 then .malformed
  else if header = true then
    if d / 2 ^ 15 ≠ 0 then .malformed
    else if stop < o + 2 + d % 2 ^ 7 then .malformed
    else if d / 2 ^ 7 % 2 ^ 8 = 0x7E then
      if secured = true then ieFinish n else next (o + 2 + d % 2 ^ 7) n false
    else if d / 2 ^ 7 % 2 ^ 8 = 0x7F then ieFinish n
    else next (o + 2 + d % 2 ^ 7) (n + 2 + d % 2 ^ 7) true
  else if d / 2 ^ 15 ≠ 1 then .malformed
  else if stop < o + 2 + d % 2 ^ 11 then .malformed
  else if d / 2 ^ 11 % 2 ^ 4 = 0xF then ieFinish n
  else next (o + 2 + d % 2 ^ 11) (n + 2 + d % 2 ^ 11) false

theorem ieLoop_succ (buf : List Byte) (stop : Nat) (secured : Bool) (fuel o n : Nat) (header : Bool) :
    ieLoop buf stop secured (fuel + 1) o n (.ofHeader header) =
      ieRound stop secured (fun o n header => ieLoop buf stop secured fuel o n (.ofHeader header))
        (ieDescriptor buf o) o n header := by
  rw [ieRound, ← ieType_ieDescriptor]
  cases header <;> rfl

/-- A round ends the walk, or goes on behind its element and inside the walked bytes, counting no more than it walks. -/
theorem ieRound_cases (stop : Nat) (secured : Bool) (d o n : Nat) (header : Bool) :
    (∃ r, (r = .malformed ∨ r = ieFinish n) ∧ ∀ next, ieRound stop secured next d o n header = r) ∨
      ∃ o' n' header', o + 2 ≤ o' ∧ o' ≤ stop ∧ n' + o ≤ n + o' ∧
        ∀ next, ieRound stop secured next d o n header = next o' n' header' := by
  unfold ieRound
  by_cases hend : o = stop
  · exact .inl ⟨_, .inr rfl, fun _ => if_pos hend⟩
  simp only [if_neg hend]
  by_cases hodd : stop < o + 2
  · exact .inl ⟨_, .inl rfl, fun _ => if_pos hodd⟩
  simp only [if_neg hodd]
  cases header with
  | true =>
    simp only [if_true]
    split_ifs
    · exact .inl ⟨_, .inl rfl, fun _ => rfl⟩
    · exact .inl ⟨_, .inl rfl, fun _ => rfl⟩
    · exact .inl ⟨_, .inr rfl, fun _ => rfl⟩
    · exact .inr ⟨_, _, _, by omega, by omega, by omega, fun _ => rfl⟩
    · exact .inl ⟨_, .inr rfl, fun _ => rfl⟩
    · exact .inr ⟨_, _, _, by omega, by omega, by omega, fun _ => rfl⟩
  | false =>
    simp only [Bool.false_eq_true, if_false]
    split_ifs
    · exact .inl ⟨_, .inl rfl, fun _ => rfl⟩
    · exact .inl ⟨_, .inl rfl, fun _ => rfl⟩
    · exact .inl ⟨_, .inr rfl, fun _ => rfl⟩
    · exact .inr ⟨_, _, _, by omega, by omega, by omega, fun _ => rfl⟩

/-! ## The whole walk -/

/-- Fuel for every round that can still come is enough fuel (log entry 27). -/
theorem ieLoop_fuel {buf : List Byte} {stop : Nat} {secured : Bool} {f g : Nat} : ∀ {o n : Nat} {header : Bool},
    stop - o < f → stop - o < g →
      ieLoop buf stop secured f o n (.ofHeader header) = ieLoop buf stop secured g o n (.ofHeader header) := by
  induction f generalizing g with
  | zero => exact fun hf _ => absurd hf (Nat.not_lt_zero _)
  | succ f ih =>
    intro o n header hf hg
    obtain ⟨g, rfl⟩ := Nat.exists_eq_add_one.mpr (Nat.zero_lt_of_lt hg)
    rw [ieLoop_succ, ieLoop_succ]
    obtain ⟨r, -, hround⟩ | ⟨o', n', header', hafter, hinside, -, hround⟩ :=
      ieRound_cases stop secured (ieDescriptor buf o) o n header
    · rw [hround, hround]
    · rw [hround, hround]
      exact ih (by omega) (by omega)

theorem ieFinish_eq_located {n m : Nat} (h : ieFinish n = .located m) : 0 < m ∧ m = n := by
  unfold ieFinish at h
  split_ifs at h with hzero
  cases h
  exact ⟨Nat.pos_of_ne_zero hzero, rfl⟩

/-- The bytes counted are bytes walked over. -/
theorem ieLoop_located {buf : List Byte} {stop : Nat} {secured : Bool} {m fuel : Nat} :
    ∀ {o n : Nat} {header : Bool}, ieLoop buf stop secured fuel o n (.ofHeader header) = .located m →
      0 < m ∧ m ≤ n + (stop - o) := by
  induction fuel with
  | zero => exact fun h => nomatch h
  | succ fuel ih =>
    intro o n header h
    rw [ieLoop_succ] at h
    obtain ⟨r, rfl | rfl, hround⟩ | ⟨o', n', header', hafter, hinside, hcount, hround⟩ :=
      ieRound_cases stop secured (ieDescriptor buf o) o n header
    · cases (hround _).symm.trans h
    · obtain ⟨hpos, rfl⟩ := ieFinish_eq_located ((hround _).symm.trans h)
      exact ⟨hpos, Nat.le_add_right _ _⟩
    · obtain ⟨hpos, hle⟩ := ih ((hround _).symm.trans h)
      exact ⟨hpos, by omega⟩

/-- The walk from offset `o` in the header or the payload part, `n` bytes located so far (R352). -/
def ieWalkFrom (buf : List Byte) (stop : Nat) (secured : Bool) (o n : Nat) (header : Bool) : IeResult :=
  ieLoop buf stop secured (stop + 1) o n (.ofHeader header)

theorem ieWalkBytes_eq_ieWalkFrom (buf : List Byte) (start stop : Nat) (secured : Bool) :
    ieWalkBytes buf start stop secured = ieWalkFrom buf stop secured start 0 true := rfl

/-- The walk is its rounds, without fuel. -/
theorem ieWalkFrom_eq (buf : List Byte) (stop : Nat) (secured : Bool) (o n : Nat) (header : Bool) :
    ieWalkFrom buf stop secured o n header =
      ieRound stop secured (ieWalkFrom buf stop secured) (ieDescriptor buf o) o n header := by
  rw [ieWalkFrom, ieLoop_succ]
  obtain ⟨r, -, hround⟩ | ⟨o', n', header', hafter, hinside, -, hround⟩ :=
    ieRound_cases stop secured (ieDescriptor buf o) o n header
  · rw [hround, hround]
  · rw [hround, hround]
    exact ieLoop_fuel (by omega) (by omega)

/-! ## Well-formed header elements -/

/-- The bytes of a header element of id `e.1` and content `e.2` (R352). -/
def ieBytes (e : Byte × List Byte) : List Byte :=
  [BitVec.ofNat 8 (e.2.length + 128 * (e.1.toNat % 2)), BitVec.ofNat 8 (e.1.toNat / 2)] ++ e.2

theorem length_ieBytes (e : Byte × List Byte) : (ieBytes e).length = 2 + e.2.length := by
  simp only [ieBytes, List.length_append, List.length_cons, List.length_nil]

theorem ieDescriptor_append (pre rest : List Byte) (lo hi : Byte) :
    ieDescriptor (pre ++ ([lo, hi] ++ rest)) pre.length = lo.toNat + 256 * hi.toNat := by
  simp [ieDescriptor]

/-- An element the walk counts: its id is neither termination, and its length fits seven bits. -/
abbrev IeWellFormed (e : Byte × List Byte) : Prop := e.1 ≠ 0x7E ∧ e.1 ≠ 0x7F ∧ e.2.length < 128

/-- A well-formed header element is counted whole, and the walk goes on behind it. -/
theorem ieWalkFrom_element {pre rest : List Byte} {stop : Nat} {secured : Bool} {n : Nat} {e : Byte × List Byte}
    (he : IeWellFormed e) (hstop : pre.length + (ieBytes e).length ≤ stop) :
    ieWalkFrom (pre ++ (ieBytes e ++ rest)) stop secured pre.length n true =
      ieWalkFrom (pre ++ (ieBytes e ++ rest)) stop secured (pre.length + (ieBytes e).length)
        (n + (ieBytes e).length) true := by
  obtain ⟨h7E, h7F, hlen⟩ := he
  have hid := e.1.isLt
  have h7E : e.1.toNat ≠ 0x7E := fun h => h7E (BitVec.eq_of_toNat_eq h)
  have h7F : e.1.toNat ≠ 0x7F := fun h => h7F (BitVec.eq_of_toNat_eq h)
  have hd : ieDescriptor (pre ++ (ieBytes e ++ rest)) pre.length = e.2.length + 128 * e.1.toNat := by
    rw [ieBytes, List.append_assoc, ieDescriptor_append, BitVec.toNat_ofNat, BitVec.toNat_ofNat]
    omega
  have hmod : (e.2.length + 128 * e.1.toNat) % 2 ^ 7 = e.2.length := by omega
  rw [length_ieBytes] at hstop ⊢
  rw [ieWalkFrom_eq, ieRound, hd, hmod, if_neg (by omega), if_neg (by omega), if_pos rfl, if_neg (by omega),
    if_neg (by omega), if_neg (by omega), if_neg (by omega), Nat.add_assoc, Nat.add_assoc]

/-- A list of well-formed header elements is counted whole, and the walk goes on behind it. -/
theorem ieWalkFrom_elements {stop : Nat} {secured : Bool} {post : List Byte} : ∀ {ies : List (Byte × List Byte)}
    {pre : List Byte} {n : Nat}, (∀ e ∈ ies, IeWellFormed e) → pre.length + (ies.flatMap ieBytes).length ≤ stop →
    ieWalkFrom (pre ++ (ies.flatMap ieBytes ++ post)) stop secured pre.length n true =
      ieWalkFrom (pre ++ (ies.flatMap ieBytes ++ post)) stop secured (pre.length + (ies.flatMap ieBytes).length)
        (n + (ies.flatMap ieBytes).length) true
  | [], _, _, _, _ => rfl
  | e :: ies, pre, n, hwf, hstop => by
    obtain ⟨he, hies⟩ := List.forall_mem_cons.mp hwf
    rw [List.flatMap_cons, List.length_append] at hstop
    have hrest := ieWalkFrom_elements (stop := stop) (secured := secured) (post := post) (pre := pre ++ ieBytes e)
      (n := n + (ieBytes e).length) hies (by rw [List.length_append]; omega)
    simp only [List.append_assoc, List.length_append, Nat.add_assoc] at hrest
    simp only [List.flatMap_cons, List.append_assoc, List.length_append]
    rw [ieWalkFrom_element he (by omega), hrest]

/-- No element, no bytes: the zero-length block. -/
theorem ieFinish_ieBytes (ies : List (Byte × List Byte)) : ieFinish (ies.flatMap ieBytes).length =
    if ies = [] then .zeroLen else .located (ies.flatMap ieBytes).length := by
  cases ies with
  | nil => rfl
  | cons e ies => rw [if_neg (List.cons_ne_nil e ies), ieFinish, if_neg (by simp [ieBytes])]

/-- The walk ends at the last walked byte. -/
theorem ieWalkFrom_end (buf : List Byte) (stop : Nat) (secured : Bool) (n : Nat) :
    ieWalkFrom buf stop secured stop n true = ieFinish n := by
  rw [ieWalkFrom_eq, ieRound, if_pos rfl]

/-- Header termination 2 ends the walk (R352). -/
theorem ieWalkFrom_termination (pre post : List Byte) {stop : Nat} (secured : Bool) (n : Nat)
    (hstop : pre.length + 2 ≤ stop) :
    ieWalkFrom (pre ++ ([0x80, 0x3F] ++ post)) stop secured pre.length n true = ieFinish n := by
  have hd : ieDescriptor (pre ++ ([0x80, 0x3F] ++ post)) pre.length = 0x3F80 := ieDescriptor_append pre post 0x80 0x3F
  rw [ieWalkFrom_eq, ieRound, hd, if_neg (by omega), if_neg (by omega), if_pos rfl, if_neg (by omega),
    if_neg (by omega), if_neg (by omega), if_pos (by omega)]

section
variable {ies : List (Byte × List Byte)} (hwf : ∀ e ∈ ies, IeWellFormed e) (pre post : List Byte) (secured : Bool)
include hwf

/-- Well-formed elements up to the end of the walked bytes are located whole. -/
theorem ieWalkBytes_elements : ieWalkBytes (pre ++ ies.flatMap ieBytes ++ post) pre.length
      (pre.length + (ies.flatMap ieBytes).length) secured =
    if ies = [] then .zeroLen else .located (ies.flatMap ieBytes).length := by
  rw [List.append_assoc, ieWalkBytes_eq_ieWalkFrom, ieWalkFrom_elements hwf le_rfl, ieWalkFrom_end, Nat.zero_add,
    ieFinish_ieBytes]

/-- Well-formed elements up to header termination 2 are located whole. -/
theorem ieWalkBytes_elements_termination (rest : Nat) :
    ieWalkBytes (pre ++ ies.flatMap ieBytes ++ [0x80, 0x3F] ++ post) pre.length
      (pre.length + (ies.flatMap ieBytes).length + 2 + rest) secured =
    if ies = [] then .zeroLen else .located (ies.flatMap ieBytes).length := by
  have hend := ieWalkFrom_termination (pre ++ ies.flatMap ieBytes) post secured (ies.flatMap ieBytes).length
    (stop := pre.length + (ies.flatMap ieBytes).length + 2 + rest) (by rw [List.length_append]; omega)
  rw [List.append_assoc, List.length_append] at hend
  rw [List.append_assoc, List.append_assoc, ieWalkBytes_eq_ieWalkFrom, ieWalkFrom_elements hwf (by omega),
    Nat.zero_add, hend, ieFinish_ieBytes]

end

/-- Settles O42: the loop is `ieWalkFrom` (`ieWalkFrom_eq`), it counts well-formed elements whole
(`ieWalkFrom_elements`), and what it counts it has walked over (`ieLoop_located`). -/
theorem informationElementWalk : Obligations.InformationElementWalk := by
  unfold Obligations.InformationElementWalk
  refine ⟨fun pre post ies secured hwf => ⟨ieWalkBytes_elements hwf pre post secured,
      ieWalkBytes_elements_termination hwf pre post secured⟩, fun buf start stop secured n h => ?_,
    fun buf start stop secured => ⟨ieWalkFrom buf stop secured, rfl, ieWalkFrom_eq buf stop secured⟩⟩
  obtain ⟨hpos, hle⟩ := ieLoop_located (header := true) h
  omega

end Sys2Proof.Machine
end

section
/-!
PROOFS. O39: the order of the stages and the end of a frame (41_rx_frame_fsm.md R300, R301, R345, R346, R354).
-/

namespace Sys2Proof.Machine

/-! ## The order of the stages -/

/-- A frame has been discarded: it is released, and its end event is awaited (R303). -/
structure State.Discarded (s : State) : Prop where
  valid : s.pf.valid = false
  rxState : s.rxState = .halted

theorem State.discard_discarded (s : State) (r : DiagReason) : (s.discard r).Discarded := ⟨by simp, rfl⟩

/-- The state a stage passes to, the frame being secured or not; the states without a stage stay (R301). -/
def RxState.next (secured : Bool) : RxState → RxState
  | .started => .addr
  | .addr => if secured then .secHdr else .payload
  | .secHdr => .payload
  | .payload => .trailer
  | .idle => .idle
  | .trailer => .trailer
  | .halted => .halted

/-- A stage passes to the next or discards the frame (R301). -/
theorem State.stageStep_passes (s : State) :
    s.stageStep.rxState = s.rxState.next (fcfSecurity s.pf.fcf) ∨ s.stageStep.Discarded := by
  unfold State.stageStep
  cases hs : s.rxState with
  | started =>
    obtain ⟨u, r, -, h⟩ | ⟨b0, b1, -, h⟩ := s.hdrStep_cases
    · exact .inr (h ▸ u.discard_discarded r)
    · exact .inl (h ▸ rfl)
  | addr =>
    obtain ⟨u, r, -, h⟩ | h := s.addrStep_cases
    · exact .inr (h ▸ u.discard_discarded r)
    · exact .inl (h ▸ State.addrPass_rxState _)
  | secHdr =>
    obtain ⟨r, h⟩ | ⟨-, h⟩ := s.secHdrStep_cases
    · exact .inr (h ▸ s.discard_discarded r)
    · exact .inl (h ▸ rfl)
  | payload =>
    obtain h | h := s.payloadStep_cases
    · exact .inr (h ▸ s.discard_discarded .length)
    · exact .inl (h ▸ rfl)
  | idle | trailer | halted => exact .inl hs

/-- How many stages are still due (R346). -/
def RxState.stagesDue : RxState → Nat
  | .started => 4
  | .addr => 3
  | .secHdr => 2
  | .payload => 1
  | .idle => 0
  | .trailer => 0
  | .halted => 0

theorem State.stageStep_of_noneDue {s : State} (h : s.rxState.stagesDue = 0) : s.stageStep = s := by
  refine State.stageStep_waiting ?_
  revert h
  cases s.rxState <;> simp [RxState.stagesDue]

theorem RxState.stagesDue_next (secured : Bool) (x : RxState) : (x.next secured).stagesDue ≤ x.stagesDue - 1 := by
  cases x <;> cases secured <;> decide

theorem RxState.midDecode_next (secured : Bool) {x : RxState} (h : x.midDecode = true) :
    (x.next secured).midDecode = true := by
  revert h
  cases x <;> cases secured <;> decide

theorem State.stagesDue_stageStep (s : State) : s.stageStep.rxState.stagesDue ≤ s.rxState.stagesDue - 1 := by
  obtain h | h := s.stageStep_passes
  · exact h ▸ RxState.stagesDue_next _ s.rxState
  · exact h.rxState ▸ Nat.zero_le _

/-- After four stages none is due (R346). -/
theorem State.stagesDue_runDueStages (s : State) : s.runDueStages.rxState.stagesDue = 0 := by
  have hfour : s.rxState.stagesDue ≤ 4 := by cases s.rxState <;> decide
  have h1 := s.stagesDue_stageStep
  have h2 := s.stageStep.stagesDue_stageStep
  have h3 := s.stageStep.stageStep.stagesDue_stageStep
  have h4 := s.stageStep.stageStep.stageStep.stagesDue_stageStep
  rw [State.runDueStages]
  omega

/-- Running the stages any longer changes nothing (R346). -/
theorem State.iterate_stageStep (s : State) {n : Nat} (h : 4 ≤ n) : State.stageStep^[n] s = s.runDueStages := by
  obtain ⟨m, rfl⟩ := Nat.exists_eq_add_of_le' h
  rw [Function.iterate_add_apply]
  exact Function.iterate_fixed (State.stageStep_of_noneDue s.stagesDue_runDueStages) m

/-! ## The frame at its end event -/

/-- The frame is being decoded, or it has been discarded. -/
def State.Decoded (s : State) : Prop := s.rxState.midDecode = true ∨ s.Discarded

theorem State.Decoded.stageStep {s : State} (h : s.Decoded) : s.stageStep.Decoded := by
  obtain hmid | hdiscarded := h
  · exact s.stageStep_passes.imp_left fun hnext => (congrArg _ hnext).trans (RxState.midDecode_next _ hmid)
  · rw [State.stageStep_waiting (.inr (.inr hdiscarded.rxState))]
    exact .inr hdiscarded

/-- The due stages leave the frame in its trailer or discarded (R346). -/
theorem State.runDueStages_ends {s : State} (h : s.rxState.midDecode = true) :
    s.runDueStages.rxState = .trailer ∨ s.runDueStages.Discarded := by
  have hdecoded : s.runDueStages.Decoded := (State.Decoded.stageStep (.inl h)).stageStep.stageStep.stageStep
  refine hdecoded.imp_left fun hmid => ?_
  have hdue := s.stagesDue_runDueStages
  revert hmid hdue
  cases s.runDueStages.rxState <;> decide

theorem State.Released.haltedToIdle {s : State} (h : s.Released) :
    s.haltedToIdle.rxState = .idle ∧ s.haltedToIdle.pf.valid = false := by
  obtain ⟨hvalid, hidle | hhalted⟩ := h
  · rw [State.haltedToIdle, if_neg (by simp [hidle])]
    exact ⟨hidle, hvalid⟩
  · rw [State.haltedToIdle_of_halted hhalted]
    exact ⟨rfl, hvalid⟩

/-- FRAME_OK mid-decode ends in IDLE with no frame held (R345). -/
theorem State.endFrame_idle {s : State} (h : s.rxState.midDecode = true) :
    s.endFrame.rxState = .idle ∧ s.endFrame.pf.valid = false := by
  unfold State.endFrame
  dsimp only
  split_ifs with htrailer
  · exact s.runDueStages.trailerAndDispatch_released.haltedToIdle
  · obtain ⟨hvalid, hhalted⟩ := (State.runDueStages_ends h).resolve_left htrailer
    exact State.Released.haltedToIdle ⟨hvalid, .inr hhalted⟩

/-! ## What is delivered -/

/-- The message hands a frame over (30_encoding.md R190). -/
def OutMsg.isDeliver : OutMsg → Bool
  | .deliver _ => true
  | _ => false

/-- The number of frames handed over so far. -/
def State.delivered (s : State) : Nat := s.out.countP OutMsg.isDeliver

theorem State.delivered_congr {s t : State} (h : t.out = s.out) : t.delivered = s.delivered := by
  rw [State.delivered, State.delivered, h]

theorem State.count_delivered (s : State) (r : DiagReason) : (s.count r).delivered = s.delivered := rfl

theorem State.delivered_withPf (s : State) (f : PartialFrame) : State.delivered { s with pf := f } = s.delivered := rfl

theorem State.delivered_withAck (s : State) (f : PartialFrame) :
    State.delivered { s with ackQueued := true, pf := f } = s.delivered := rfl

/-- Messages that hand nothing over leave the number alone. -/
theorem State.delivered_append {s t : State} {ms : List OutMsg} (h : t.out = s.out ++ ms)
    (hms : ms.all (fun m => !m.isDeliver) = true) : t.delivered = s.delivered := by
  have hnone : ms.countP OutMsg.isDeliver = 0 := List.countP_eq_zero.mpr (by simpa using hms)
  rw [State.delivered, State.delivered, h, List.countP_append, hnone, Nat.add_zero]

theorem State.discard_delivered (s : State) (r : DiagReason) : (s.discard r).delivered = s.delivered := by
  refine State.delivered_append (t := s.discard r) (by rw [s.discard_out r, List.append_assoc]) ?_
  split_ifs <;> rfl

theorem State.finishFrame_delivered (s : State) : s.finishFrame.delivered = s.delivered :=
  State.delivered_append (by rw [State.finishFrame_eq]) rfl

theorem State.submitAck_delivered (s : State) (p q : Word) : (s.submitAck p q).2.delivered = s.delivered :=
  State.delivered_append (ms := [.submit .ack .ack Slot.ack.eventMask (some s.drawAckStart.1)])
    (by simp [State.submitAck_eq]) rfl

theorem State.onAccepted_delivered (s : State) (p : Slot) (m : List Slot) :
    (s.onAccepted p m).delivered = s.delivered := by
  refine State.delivered_append (s.onAccepted_out p m) ?_
  split_ifs <;> rfl

theorem State.submitImmAck_delivered (s : State) : s.submitImmAck.delivered = s.delivered := by
  rw [State.submitImmAck_eq]
  dsimp only
  split_ifs
  · rfl
  · rw [State.delivered_withAck, State.onAccepted_delivered, State.submitAck_delivered]
  · rw [State.count_delivered, State.submitAck_delivered]

theorem State.submitEnhAck_delivered (s : State) : s.submitEnhAck.delivered = s.delivered := by
  have hdrawn : s.drawEnhAckIEs.2.delivered = s.delivered := State.delivered_congr (by simp)
  rw [State.submitEnhAck_eq]
  dsimp only
  split_ifs
  · rfl
  · rw [State.delivered_withAck, State.onAccepted_delivered, State.submitAck_delivered, hdrawn]
  · rw [State.count_delivered, State.submitAck_delivered, hdrawn]

theorem State.hdrStep_delivered (s : State) : s.hdrStep.delivered = s.delivered := by
  unfold State.hdrStep
  dsimp only
  split_ifs
  case neg =>
    split
    · exact s.discard_delivered _
    · rw [State.hdrAllocate_eq_draws]
      split_ifs
      · rfl
      · exact State.discard_delivered _ _
  all_goals exact s.discard_delivered _

theorem State.addrPass_delivered (s : State) : s.addrPass.delivered = s.delivered := by
  have hacked : (if s.ackNeeded then s.submitImmAck else s).delivered = s.delivered := by
    split_ifs
    · exact s.submitImmAck_delivered
    · rfl
  rw [← hacked]
  exact State.delivered_congr rfl

/-- No stage hands a frame over (R354). -/
theorem State.stageStep_delivered (s : State) : s.stageStep.delivered = s.delivered := by
  unfold State.stageStep
  split
  · exact s.hdrStep_delivered
  · obtain ⟨u, r, rfl | rfl, h⟩ | h := s.addrStep_cases
    · exact h ▸ State.discard_delivered _ r
    · exact h ▸ State.discard_delivered _ r
    · exact h ▸ State.addrPass_delivered _
  · obtain ⟨r, h⟩ | ⟨-, h⟩ := s.secHdrStep_cases
    · exact h ▸ s.discard_delivered r
    · exact h ▸ rfl
  · obtain h | h := s.payloadStep_cases
    · exact h ▸ s.discard_delivered _
    · exact h ▸ rfl
  all_goals rfl

theorem State.runDueStages_delivered (s : State) : s.runDueStages.delivered = s.delivered := by
  simp only [State.runDueStages, State.stageStep_delivered]

theorem State.ackConsume_delivered (s : State) : s.ackConsume.delivered = s.delivered := by
  unfold State.ackConsume
  split_ifs
  · exact (State.finishFrame_delivered _).trans (State.delivered_append rfl rfl)
  · exact s.discard_delivered _

theorem State.deliver_delivered (s : State) : s.deliver.delivered = s.delivered + 1 := by
  rw [State.deliver, State.finishFrame_delivered, State.delivered, State.emit, List.countP_append]
  rfl

theorem State.ackAndDeliver_delivered (s : State) : s.ackAndDeliver.delivered = s.delivered + 1 := by
  rw [State.ackAndDeliver, State.deliver_delivered]
  split_ifs
  · rw [State.submitEnhAck_delivered]
  · rfl

theorem State.dispatchFrame_delivered (s : State) : s.dispatchFrame.delivered ≤ s.delivered + 1 := by
  unfold State.dispatchFrame
  split_ifs
  · split
    · rw [State.ackAndDeliver_delivered, State.delivered_withPf]
    · exact (s.discard_delivered _).trans_le (Nat.le_succ _)
    · exact (s.discard_delivered _).trans_le (Nat.le_succ _)
  · exact s.ackAndDeliver_delivered.le

/-- The dispatch hands over one frame at most (R354). -/
theorem State.trailerAndDispatch_delivered (s : State) : s.trailerAndDispatch.delivered ≤ s.delivered + 1 := by
  unfold State.trailerAndDispatch
  dsimp only
  split_ifs
  · exact (s.discard_delivered _).trans_le (Nat.le_succ _)
  · rw [State.ackConsume_delivered, State.delivered_withPf]
    exact Nat.le_succ _
  · rw [← s.delivered_withPf s.trailerFrame]
    exact State.dispatchFrame_delivered _

/-- The end of a frame hands over one frame at most (R345, R354). -/
theorem State.endFrame_delivered (s : State) : s.endFrame.delivered ≤ s.delivered + 1 := by
  rw [State.endFrame, State.delivered_congr (State.haltedToIdle_out _), ← s.runDueStages_delivered]
  split_ifs
  · exact State.trailerAndDispatch_delivered _
  · exact Nat.le_succ _

/-- Settles O39: the stages' order is `State.stageStep_passes`, none is due after four (`State.iterate_stageStep`), and
the end of a frame leaves none held (`State.endFrame_idle`) and hands one over at most (`State.endFrame_delivered`). -/
theorem stageOrder : Obligations.StageOrder := by
  refine ⟨fun s => ?_, fun s n => s.iterate_stageStep, fun s hr hmid => ?_⟩
  · have hpasses : s.stageStep.rxState = s.rxState.next (fcfSecurity s.pf.fcf) ∨ s.stageStep.rxState = .halted :=
      s.stageStep_passes.imp_right State.Discarded.rxState
    refine ⟨fun hs => ?_, fun hs => ?_, fun hs => ?_, fun hs => ?_, State.stageStep_waiting⟩ <;>
      rwa [hs] at hpasses
  · obtain ⟨hidle, hvalid⟩ := State.endFrame_idle hmid
    obtain ⟨ms, hms⟩ := s.endFrame_out_prefix
    refine ⟨s.endFrame, ms, ?_, hidle, hvalid, hms.symm, ?_⟩
    · rw [← State.frameOkEvent_of_midDecode hmid]
      exact exec_frameEvent hr (b := 1) (by decide)
    · have hone := s.endFrame_delivered
      rw [State.delivered, State.delivered, ← hms, List.countP_append] at hone
      have hcount : ms.countP OutMsg.isDeliver ≤ 1 := by omega
      rwa [List.countP_eq_length_filter] at hcount

end Sys2Proof.Machine
end

section
/-!
PROOFS. O17, O18, O19: DC_RECORD, DC_CHECK, DC_ADVANCE and SET_ROLE (42_duty_cycle.md R392 to R398).
-/

namespace Sys2Proof.Machine

/-- A guarded command in a ready state is its body (00_scope.md R12). -/
theorem exec_of_guardCmd {i : Instr} {body : State → State} (h : ∀ s, exec i s = .next (s.guardCmd body)) {s : State}
    (hr : s.ready) : exec i s = .next (body s) :=
  (h s).trans (congrArg _ (State.guardCmd_ready hr.1 hr.2 body))

/-! ## The model's window operations as the rules word them -/

/-- The mode of a total as the rule words it (R391). -/
theorem State.classify_eq_modeOf (s : State) (t : Nat) : s.classify t = s.modeOf t := by
  unfold State.classify State.modeOf
  simp only [← State.effT_eq_threshold, Nat.cast_le]

/-- A mode stored and then notified against the one before (R398). -/
theorem State.notifyMode_eq_withMode (s : State) (m : DcMode) :
    State.notifyMode { s with dcMode := m } s.dcMode = s.withMode m := by
  unfold State.notifyMode State.withMode
  split_ifs
  · rfl
  · rw [List.append_nil]

/-- A record as the rule words it (R392). -/
theorem State.dcAdd_eq_recorded (s : State) (d : Word) : s.dcAdd d = s.recorded d := by
  unfold State.dcAdd State.recorded
  dsimp only
  rw [State.classify_eq_modeOf]
  exact State.notifyMode_eq_withMode { s with
    dcBucket := s.dcBucket.set s.dcCur.toNat (s.bucket s.dcCur.toNat + d)
    dcTotal := s.dcTotal + d
    dcRecorded := true } _

/-- An advance as the rule words it (R396). -/
theorem State.dcAdvance_eq_advanced (s : State) : s.dcAdvance = s.advanced := by
  unfold State.dcAdvance State.advanced
  dsimp only
  rw [State.classify_eq_modeOf]
  exact State.notifyMode_eq_withMode { s with
    dcTotal := s.dcTotal - s.bucket s.oldestBucket
    dcBucket := s.dcBucket.set s.oldestBucket 0
    dcCur := BitVec.ofNat 6 s.oldestBucket } _

theorem State.dcOverflows_iff (s : State) (d : Word) :
    s.dcOverflows d = true ↔ 2 ^ 32 - 1 < s.dcTotal.toNat + d.toNat := decide_eq_true_iff

/-! ## The commands past their guard -/

/-- DC_RECORD past its guard (R393). -/
theorem exec_dcRecord {s : State} (hr : s.ready) : exec .dcRecord s = .next
    (if s.dcOverflows s.arg0 then s.result .invalidArg else (s.dcAdd s.arg0).result .ok) :=
  (exec_of_guardCmd (i := .dcRecord) (fun _ => rfl) hr :)

/-- DC_CHECK past its guard (R394). -/
theorem exec_dcCheck {s : State} (hr : s.ready) :
    exec .dcCheck s = .next { s with res := resWord .ok (s.dcAllowed s.arg0) } :=
  (exec_of_guardCmd (i := .dcCheck) (fun _ => rfl) hr :)

/-- DC_ADVANCE past its guard (R396). -/
theorem exec_dcAdvance {s : State} (hr : s.ready) : exec .dcAdvance s = .next (s.dcAdvance.result .ok) :=
  (exec_of_guardCmd (i := .dcAdvance) (fun _ => rfl) hr :)

/-- Settles O17: both records test the overflow (`State.dcOverflows_iff`), and past it each is the rule's record
(`State.dcAdd_eq_recorded`). -/
theorem dutyRecord : Obligations.DutyRecord := by
  refine ⟨guards.1 .dcRecord rfl rfl nofun, fun s hr => ⟨fun hover => ?_, fun hfits => ?_⟩,
    fun s d => ⟨fun hover => ?_, fun hfits => ?_⟩⟩
  · rw [exec_dcRecord hr, if_pos ((s.dcOverflows_iff _).mpr hover)]
    rfl
  · rw [exec_dcRecord hr, if_neg (mt (s.dcOverflows_iff _).mp hfits.not_gt), State.dcAdd_eq_recorded]
    rfl
  · exact if_pos ((s.dcOverflows_iff d).mpr hover)
  · exact (if_neg (mt (s.dcOverflows_iff d).mp hfits.not_gt)).trans (s.dcAdd_eq_recorded d)

/-- Settles O18: the answer is the rule's check (`State.dcAllowed_iff`). -/
theorem dutyCheck : Obligations.DutyCheck := by
  refine ⟨guards.1 .dcCheck rfl rfl nofun, fun s hr => ⟨fun hpasses => ?_, fun hblocked => ?_⟩⟩
  · rw [exec_dcCheck hr, (s.dcAllowed_iff _).mpr hpasses]
    rfl
  · rw [exec_dcCheck hr, Bool.eq_false_iff.mpr (mt (s.dcAllowed_iff _).mp hblocked)]
    rfl

/-- Settles O19: the advance is the rule's (`State.dcAdvance_eq_advanced`), and the role is stored by definition. -/
theorem dutyAdvanceAndRole : Obligations.DutyAdvanceAndRole := by
  refine ⟨guards.1 .dcAdvance rfl rfl nofun, fun p b => guards.1 (.setRole p b) rfl rfl nofun,
    fun s hr => ⟨?_, fun p b => (exec_of_guardCmd (i := .setRole p b) (fun _ => rfl) hr :)⟩⟩
  rw [exec_dcAdvance hr, State.dcAdvance_eq_advanced]
  rfl

end Sys2Proof.Machine
end

section
/-!
PROOFS. O58: N_BUCKETS advances empty the duty-cycle window (42_duty_cycle.md R396, R399).
-/

namespace Sys2Proof.Machine

/-! ## One advance -/

/-- The state DC_ADVANCE leaves a ready state in (R396). -/
def State.afterDcAdvance (s : State) : State := s.dcAdvance.result .ok

/-- The fields the thresholds are computed from (R390). -/
@[simp] def State.thresholdView (s : State) := (s.cfg, s.panCoord, s.beaconEn, s.dcBeacon)

theorem State.modeOf_congr {s t : State} (h : t.thresholdView = s.thresholdView) (total : Int) :
    t.modeOf total = s.modeOf total := by
  simp only [State.thresholdView, Prod.mk.injEq] at h
  obtain ⟨hcfg, hcoord, hbeacon, hairtime⟩ := h
  unfold State.modeOf State.threshold
  rw [hcfg, hcoord, hbeacon, hairtime]

/-- An advance empties the oldest bucket and keeps the others (R396). -/
theorem State.afterDcAdvance_bucket (s : State) (i : Nat) :
    s.afterDcAdvance.bucket i = if i = s.oldestBucket then 0 else s.bucket i := by
  have hbuckets : s.afterDcAdvance.dcBucket = s.dcBucket.set s.oldestBucket 0 := by simp [State.afterDcAdvance]
  rw [State.bucket, hbuckets, List.getD_eq_getElem?_getD]
  split_ifs with hi
  · rw [hi, List.getElem?_set_self']
    cases s.dcBucket[s.oldestBucket]? <;> rfl
  · rw [List.getElem?_set_ne (Ne.symm hi), State.bucket, List.getD_eq_getElem?_getD]

/-- An advance leaves the mode of its total (R396). -/
theorem State.afterDcAdvance_dcMode (s : State) :
    s.afterDcAdvance.dcMode = s.modeOf s.afterDcAdvance.dcTotal.toNat := by
  rw [State.afterDcAdvance, State.dcAdvance_eq_advanced]
  rfl

/-! ## Many advances -/

/-- `t` is `s` after `k` advances: the buckets behind the current one have been emptied, `k` of them (R399). -/
structure State.WindowAfter (s : State) (k : Nat) (t : State) : Prop where
  ready : t.ready
  duty : t.DutyInv
  thresholds : t.thresholdView = s.thresholdView
  recorded : t.dcRecorded = s.dcRecorded
  cur : t.dcCur.toNat = (s.dcCur.toNat + k) % s.cfg.nBuckets
  emptied : ∀ j, 0 < j → j ≤ k → t.bucket ((s.dcCur.toNat + j) % s.cfg.nBuckets) = 0
  mode : 0 < k → t.dcMode = s.modeOf t.dcTotal.toNat

theorem State.DutyInv.windowAfter_zero {s : State} (h : s.DutyInv) (hr : s.ready) : s.WindowAfter 0 s where
  ready := hr
  duty := h
  thresholds := rfl
  recorded := rfl
  cur := (Nat.mod_eq_of_lt h.cur).symm
  emptied _ hpos hle := absurd hpos hle.not_gt
  mode hpos := absurd hpos (lt_irrefl 0)

/-- One more advance empties one more bucket; the bucket's number fits dcCur (10_state.md R53). -/
theorem State.WindowAfter.afterDcAdvance {s t : State} {k : Nat} (h : s.WindowAfter k t) (hsize : s.cfg.nBuckets ≤ 64) :
    s.WindowAfter (k + 1) t.afterDcAdvance := by
  have hcfg : t.cfg = s.cfg := congrArg Prod.fst h.thresholds
  have hold : t.oldestBucket = (s.dcCur.toNat + (k + 1)) % s.cfg.nBuckets := by
    rw [State.oldestBucket, h.cur, hcfg, Nat.mod_add_mod, Nat.add_assoc]
  have hlt : t.oldestBucket < 64 := by
    have hpos : 0 < t.cfg.nBuckets := Nat.zero_lt_of_lt h.duty.cur
    exact (Nat.mod_lt _ hpos).trans_le (hcfg ▸ hsize)
  refine ⟨?_, h.duty.dcAdvance.congr (by simp [State.afterDcAdvance]), ?_, ?_, ?_, fun j hpos hle => ?_, fun _ => ?_⟩
  · simpa [State.afterDcAdvance, State.ready] using h.ready
  · rw [← h.thresholds]
    simp [State.afterDcAdvance]
  · rw [← h.recorded]
    simp [State.afterDcAdvance]
  · rw [← hold, ← Nat.mod_eq_of_lt hlt]
    simp [State.afterDcAdvance]
  · rw [State.afterDcAdvance_bucket, hold]
    obtain rfl | hbefore := hle.eq_or_lt
    · exact if_pos rfl
    · rw [h.emptied j hpos (Nat.le_of_lt_succ hbefore), ite_self]
  · rw [State.afterDcAdvance_dcMode, State.modeOf_congr h.thresholds]

/-- A run of advances iterates the one advance. -/
theorem execAll_dcAdvance {s : State} (hr : s.ready) (k : Nat) :
    execAll (List.replicate k .dcAdvance) s = .next (State.afterDcAdvance^[k] s) := by
  induction k generalizing s with
  | zero => rfl
  | succ k ih =>
    rw [List.replicate_succ, execAll, exec_dcAdvance hr]
    exact ih (by simpa [State.ready] using hr)

theorem State.DutyInv.windowAfter_iterate {s : State} (h : s.DutyInv) (hr : s.ready) (hsize : s.cfg.nBuckets ≤ 64)
    (k : Nat) : s.WindowAfter k (State.afterDcAdvance^[k] s) := by
  induction k with
  | zero => exact h.windowAfter_zero hr
  | succ k ih =>
    rw [Function.iterate_succ_apply']
    exact ih.afterDcAdvance hsize

/-! ## A full round -/

/-- `n` places ahead of a place of a ring of `n`, each place is passed. -/
theorem exists_offset_mod {n c i : Nat} (hc : c < n) (hi : i < n) : ∃ j, 0 < j ∧ j ≤ n ∧ (c + j) % n = i := by
  obtain hle | hlt := le_or_gt i c
  · exact ⟨n - c + i, by omega, by omega,
      by rw [show c + (n - c + i) = i + n by omega, Nat.add_mod_right, Nat.mod_eq_of_lt hi]⟩
  · exact ⟨i - c, by omega, by omega, by rw [show c + (i - c) = i by omega, Nat.mod_eq_of_lt hi]⟩

/-- After N_BUCKETS advances every bucket is empty. -/
theorem State.WindowAfter.dcBucket_eq {s t : State} (h : s.WindowAfter s.cfg.nBuckets t)
    (hc : s.dcCur.toNat < s.cfg.nBuckets) : t.dcBucket = List.replicate s.cfg.nBuckets 0 := by
  have hcfg : t.cfg = s.cfg := congrArg Prod.fst h.thresholds
  have hlen : t.dcBucket.length = s.cfg.nBuckets := hcfg ▸ h.duty.buckets
  refine List.eq_replicate_iff.mpr ⟨hlen, fun w hw => ?_⟩
  obtain ⟨i, hi, rfl⟩ := List.mem_iff_getElem.mp hw
  obtain ⟨j, hpos, hle, hj⟩ := exists_offset_mod hc (hlen ▸ hi)
  have hzero : t.bucket i = 0 := hj ▸ h.emptied j hpos hle
  rwa [State.bucket, List.getD_eq_getElem _ _ hi] at hzero

/-- The total of an empty window (R54). -/
theorem State.DutyInv.dcTotal_eq_zero {s : State} (h : s.DutyInv) {n : Nat} (hb : s.dcBucket = List.replicate n 0) :
    s.dcTotal = 0 := by
  apply BitVec.eq_of_toNat_eq
  rw [h.total, hb]
  simp

/-- Settles O58: by induction each advance empties one more bucket (`State.WindowAfter.afterDcAdvance`), and a full round
passes every bucket (`exists_offset_mod`). -/
theorem windowEviction : Obligations.WindowEviction := by
  intro s hc hduty hr
  obtain ⟨⟨hpos, hsize⟩, -⟩ := sizes_of_admitted hc
  have hafter := hduty.windowAfter_iterate hr hsize s.cfg.nBuckets
  have hbuckets := hafter.dcBucket_eq hduty.cur
  have htotal := hafter.duty.dcTotal_eq_zero hbuckets
  have hmode := hafter.mode hpos
  rw [htotal] at hmode
  refine ⟨_, execAll_dcAdvance hr _, htotal, hbuckets, BitVec.eq_of_toNat_eq ?_, hmode, hafter.recorded⟩
  rw [hafter.cur, Nat.add_mod_right, Nat.mod_eq_of_lt hduty.cur]

end Sys2Proof.Machine
end

section
/-!
PROOFS. O20, O27: BACKOFF_REQ and TC_FIRED (43_backoff_timers.md R430, R431, R445).
-/

namespace Sys2Proof.Machine

/-- Settles O20: SEL names a class (`cmdBackoffReq_class`) or none (`cmdBackoffReq_invalid`). -/
theorem backoffRequest : Obligations.BackoffRequest := fun sel =>
  ⟨guards.1 (.backoffReq sel) rfl rfl nofun, fun _ hr =>
    ⟨fun hsel => congrArg Host.Outcome.next (cmdBackoffReq_invalid hr hsel),
      fun c hsel => hsel ▸ congrArg Host.Outcome.next (cmdBackoffReq_class hr c)⟩⟩

/-- TC_FIRED of a timer-compare handle runs the channel's rule: its mask holds the bit (30_encoding.md R189). -/
theorem exec_evtTcFired {s : State} (hr : s.ready) (ch : TcChan) :
    exec (.evtTcFired (handleOf ch.slot)) s = .next (s.tcFired ch) := by
  have hslot : slotOfNum (handleOf ch.slot).toNat = some ch.slot := by cases ch <;> rfl
  have hrule : s.eventBit ch.slot 7 = s.tcFired ch := by cases ch <;> rfl
  exact hrule ▸ exec_oneBitEvent hr hslot (b := 7) (by decide)

/-- Settles O27: the channel's rule (`exec_evtTcFired`), for a channel that is armed and for one that is not. -/
theorem timerCompareFired : Obligations.TimerCompareFired := by
  refine ⟨fun _ => guardedEvt_of_deliverEvent fun _ => rfl, fun s ch hr => ⟨fun harmed => ?_, fun harmed => ?_⟩⟩
  · rw [exec_evtTcFired hr, State.tcFired, if_neg (by simp [harmed])]
  · rw [exec_evtTcFired hr, State.tcFired, if_pos harmed]
    rfl

end Sys2Proof.Machine
end

section
/-!
PROOFS. O52: one backoff timer per class and valid stored operands (43_backoff_timers.md R433, R435). The four
operations that write a class's timer keep the invariant; a submission, a retry and an expiry are made of them.
-/

namespace Sys2Proof.Machine

/-- The fields the timer invariant reads. -/
@[simp] def State.timerView (s : State) := (s.cfg, s.bo, s.retryEvt, s.retryArgs)

theorem State.TimerInv.congr {s t : State} (h : s.TimerInv) (e : t.timerView = s.timerView) : t.TimerInv := by
  obtain ⟨ecfg, ebo, eevt, eargs⟩ : t.cfg = s.cfg ∧ t.bo = s.bo ∧ t.retryEvt = s.retryEvt ∧
    t.retryArgs = s.retryArgs := by simpa using e
  refine ⟨fun c => by rw [ebo, eevt]; exact h.one c, fun c => ?_⟩
  simp only [State.retryArgsOk, ecfg, eargs]
  exact h.args c

/-! ## The operations on a class -/

/-- Only class `c` can break the invariant when every other class stays as it was. -/
theorem State.TimerInv.of_class {s t : State} (h : s.TimerInv) (c : OpClass) (hcfg : t.cfg = s.cfg)
    (other : ∀ d, d ≠ c → t.retryView d = s.retryView d)
    (one : (t.bo.get c).running = true → t.retryEvt.get c = false)
    (args : (t.retryArgs.get c).valid = true → s.retryArgsOk c (t.retryArgs.get c)) : t.TimerInv := by
  have hok (d : OpClass) (a : RetryArgs) : t.retryArgsOk d a = s.retryArgsOk d a := by
    simp only [State.retryArgsOk, hcfg]
  have hother (d : OpClass) (hd : d ≠ c) : t.bo.get d = s.bo.get d ∧ t.retryEvt.get d = s.retryEvt.get d ∧
      t.retryArgs.get d = s.retryArgs.get d := by
    have hview := other d hd
    simp only [State.retryView, Prod.mk.injEq] at hview
    exact hview.2.2
  refine ⟨fun d => ?_, fun d => ?_⟩ <;> by_cases hd : d = c
  · exact hd ▸ one
  · rw [(hother d hd).1, (hother d hd).2.1]
    exact h.one d
  · rw [hok]
    exact hd ▸ args
  · rw [hok, (hother d hd).2.2]
    exact h.args d

/-- An arming drops the expiry not yet consumed, and a cancel leaves no timer running (R430). -/
theorem State.TimerInv.boRequest {s : State} (h : s.TimerInv) (c : OpClass) (d : Word) :
    (s.boRequest c d).TimerInv := by
  rw [State.boRequest_eq]
  exact h.of_class c rfl (fun x hx => by simp [State.boAsked, hx]) (fun _ => by simp [State.boAsked]) (h.args c)

/-- Operands that the class's command accepts may be stored (40_scheduler.md R234, R241, R246). -/
theorem State.TimerInv.storeRetry {s : State} (h : s.TimerInv) {c : OpClass} {a : RetryArgs} (ha : s.retryArgsOk c a) :
    (s.storeRetry c a).TimerInv :=
  h.of_class c rfl (fun x hx => by simp [hx]) (h.one c) (fun _ => by simpa using ha)

theorem State.TimerInv.clearBackoff {s : State} (h : s.TimerInv) (c : OpClass) : (s.clearBackoff c).TimerInv :=
  h.of_class c rfl (fun x hx => by simp [hx]) (fun _ => by simp) (fun hv => by simp at hv)

/-- An expiry stops the timer it raises the event of (R432). -/
theorem State.TimerInv.boExpire {s : State} (h : s.TimerInv) (c : OpClass) : (s.boExpire c).TimerInv :=
  h.of_class c rfl (fun x hx => by simp [hx]) (fun hrun => by simp at hrun) (h.args c)

/-- The retry consumes the expiry (R435). -/
theorem State.TimerInv.consumeExpiry {s : State} (h : s.TimerInv) (c : OpClass) :
    State.TimerInv { s with retryEvt := s.retryEvt.set c false } :=
  h.of_class c rfl (fun x hx => by simp [hx]) (fun _ => by simp) (h.args c)

theorem State.TimerInv.dropRetry {s : State} (h : s.TimerInv) (c : OpClass) : (s.dropRetry c).TimerInv :=
  h.of_class c rfl (fun x hx => by simp [State.dropRetry, hx]) (h.one c) (fun hv => by simp [State.dropRetry] at hv)

/-- INIT stops every timer and forgets every stored submission (70_reset_and_hazards.md R541). -/
theorem State.initialise_timerInv (s : State) : s.initialise.TimerInv where
  one c hrun := by
    rw [show s.initialise.bo = PerClass.all ⟨false, 0⟩ from rfl, PerClass.get_all] at hrun
    cases hrun
  args c hv := by
    rw [show s.initialise.retryArgs = PerClass.all ⟨false, 0, 0, 0, 0⟩ from rfl, PerClass.get_all] at hv
    cases hv

/-! ## Submissions -/

theorem State.TimerInv.doSubmitRx {s : State} (h : s.TimerInv) {ch : Half} (hch : ch.toNat < s.cfg.nChannels) :
    (s.doSubmitRx ch).2.TimerInv := by
  rw [State.doSubmitRx_eq]
  dsimp only
  split
  · exact (h.congr (by simp)).clearBackoff .rx
  · exact ((h.congr (by simp)).boRequest .rx _).storeRetry (by simpa [State.retryArgsOk] using hch)

theorem State.TimerInv.doSubmitTx {s : State} (h : s.TimerInv) {ch : Half} {f : BitVec 4} {a0 a1 : Word}
    (hargs : s.retryArgsOk .tx ⟨true, ch, f, a0, a1⟩) : (s.doSubmitTx ch f a0 a1).2.TimerInv := by
  rw [State.doSubmitTx_eq]
  dsimp only
  split
  · split
    · exact (h.congr (by simp [State.setTxContext])).clearBackoff .tx
    · exact ((h.congr (by simp)).boRequest .tx _).storeRetry (by simpa [State.retryArgsOk] using hargs)
  · exact h

theorem State.TimerInv.doSubmitNoop {s : State} (h : s.TimerInv) : s.doSubmitNoop.2.TimerInv := by
  rw [State.doSubmitNoop_eq]
  dsimp only
  split
  · exact (h.congr (by simp)).clearBackoff .noop
  · exact ((h.congr (by simp)).boRequest .noop _).storeRetry trivial

/-! ## Commands -/

theorem State.TimerInv.result {s : State} (h : s.TimerInv) (c : ResultCode) : (s.result c).TimerInv :=
  h.congr (by simp)

/-- A guarded command keeps the invariant when its body does. -/
theorem State.TimerInv.guardCmd {s : State} {body : State → State} (h : s.TimerInv) (run : (body s).TimerInv) :
    (s.guardCmd body).TimerInv :=
  State.guardCmd_keeps (h.congr (by simp)) (h.result _) fun _ => run

/-- A guarded command whose body leaves the timers alone. -/
theorem State.TimerInv.quietCmd {s : State} {body : State → State} (h : s.TimerInv)
    (run : (body s).timerView = s.timerView) : (s.guardCmd body).TimerInv :=
  h.guardCmd (h.congr run)

theorem State.TimerInv.cmdInit {s : State} (h : s.TimerInv) : (cmdInit s).TimerInv := by
  rw [cmdInit_eq]
  split_ifs
  · exact h.result _
  · exact h.result _
  · exact State.initialise_timerInv _
  · exact State.initialise_timerInv _
  · exact h.congr (by simp)

theorem State.TimerInv.cmdSubmitRx {s : State} (h : s.TimerInv) (ch : Half) : (cmdSubmitRx ch s).TimerInv := by
  refine h.guardCmd ?_
  split_ifs with hch
  · exact h.result _
  · exact h.result _
  · exact h.result _
  · exact (h.doSubmitRx (not_le.mp hch)).result _

/-- The operands SUBMIT_TX goes on with are ones it accepts (R240). -/
theorem State.retryArgsOk_of_txArgs {s : State} {ch : Half} (h : ¬s.txArgsBad ch = true) (f : BitVec 4) (a0 : Word) :
    s.retryArgsOk .tx ⟨true, ch, f, a0, s.arg1⟩ := by
  simpa [State.txArgsBad, State.retryArgsOk, and_assoc] using h

theorem State.TimerInv.cmdSubmitTx {s : State} (h : s.TimerInv) (ch : Half) (ackReq cca : Bool) :
    (cmdSubmitTx ch ackReq cca s).TimerInv := by
  refine h.guardCmd ?_
  split_ifs with hbad
  · exact h.result _
  · exact h.result _
  · exact (h.doSubmitTx (State.retryArgsOk_of_txArgs hbad _ _)).result _

theorem State.TimerInv.cmdSubmitNoop {s : State} (h : s.TimerInv) : (cmdSubmitNoop s).TimerInv := by
  refine h.guardCmd ?_
  split_ifs
  · exact h.result _
  · exact h.doSubmitNoop.result _

theorem State.TimerInv.cmdBackoffReq {s : State} (h : s.TimerInv) (sel : BitVec 4) :
    (cmdBackoffReq sel s).TimerInv := by
  refine h.guardCmd ?_
  split
  · exact h.result _
  · exact (h.boRequest _ _).result _

/-- No event touches a timer. -/
theorem State.deliverEvent_timerView (s : State) (h bits : Byte) : (s.deliverEvent h bits).timerView = s.timerView := by
  have hview := s.deliverEvent_eventView h bits
  simp_all

theorem State.TimerInv.exec {i : Instr} {s t : State} (h : s.TimerInv) (he : exec i s = .next t) : t.TimerInv :=
  exec_keeps (P := State.TimerInv)
    (arg0 := fun _ _ hu => hu.congr (by simp))
    (arg1 := fun _ _ hu => hu.congr (by simp))
    (init := fun _ hu => hu.cmdInit)
    (submitRx := fun ch _ hu => hu.cmdSubmitRx ch)
    (submitTx := fun ch a c _ hu => hu.cmdSubmitTx ch a c)
    (submitNoop := fun _ hu => hu.cmdSubmitNoop)
    (stopAll := fun _ _ hu => hu.quietCmd (by simp))
    (power := fun _ _ hu => hu.quietCmd (by split <;> simp))
    (setupTc := fun _ _ _ hu => by rw [cmdSetupTc_eq]; exact hu.quietCmd (by simp))
    (dcRecord := fun _ hu => hu.quietCmd (by split <;> simp))
    (dcCheck := fun _ hu => hu.quietCmd (by simp))
    (dcAdvance := fun _ hu => hu.quietCmd (by simp))
    (setRole := fun _ _ _ hu => hu.quietCmd (by simp))
    (backoff := fun sel _ hu => hu.cmdBackoffReq sel)
    (setPan := fun _ _ hu => hu.quietCmd (by simp))
    (setShort := fun _ _ hu => hu.quietCmd (by simp))
    (setExt := fun _ hu => hu.quietCmd (by simp))
    (filter := fun _ _ _ _ _ hu => hu.quietCmd (by simp))
    (event := fun x b u hu => hu.congr (u.deliverEvent_timerView x b)) h he

/-! ## Agents -/

theorem State.TimerInv.retryOutcome {s : State} (h : s.TimerInv) (c : OpClass) (out : ResultCode) :
    (s.retryOutcome c out).TimerInv := by
  cases out
  case ok | rejected | deferred | illegalOp | fatal => exact h
  case busy | busyDecode | dcBlocked | invalidArg => exact h.dropRetry c

/-- A retry stores again, if it is rejected, the operands it was given (R435). -/
theorem State.TimerInv.retrySubmit {s : State} (h : s.TimerInv) {c : OpClass} {a : RetryArgs}
    (ha : s.retryArgsOk c a) : (s.retrySubmit c a).2.TimerInv := by
  cases c with
  | rx =>
    simp only [State.retrySubmit]
    split_ifs
    · exact h
    · exact h
    · exact h.doSubmitRx ha
  | tx =>
    simp only [State.retrySubmit]
    split_ifs
    · exact h
    · exact h.doSubmitTx ha
  | noop =>
    simp only [State.retrySubmit]
    split_ifs
    · exact h
    · exact h.doSubmitNoop

theorem State.TimerInv.retryStep {s : State} (h : s.TimerInv) (c : OpClass) : (s.retryStep c).TimerInv := by
  have hconsumed := h.consumeExpiry c
  rw [State.retryStep_eq]
  dsimp only
  split
  · rename_i hv
    exact (hconsumed.retrySubmit (h.args c hv)).retryOutcome c _
  · exact hconsumed

theorem State.TimerInv.agentStep {s : State} (h : s.TimerInv) (a : Agent) : (s.agentStep a).TimerInv := by
  cases a with
  | parser => exact h.congr (by simp [State.agentStep])
  | boTimer c => exact h.boExpire c
  | retry c => exact h.retryStep c
  | ackTimer => exact h.congr (by simp [State.agentStep])

/-- Settles O52: the instructions (`State.TimerInv.exec`) and the agents (`State.TimerInv.agentStep`) keep the
invariant, and nothing else touches a timer. -/
theorem timerInvKept : Obligations.TimerInvKept := fun _ _ h hstep =>
  step_keeps (P := State.TimerInv)
    (sched := fun _ _ hu => hu.congr (by simp))
    (draws := fun _ _ hu => hu.congr (by simp))
    (bus := fun _ _ hu => hu.congr (by simp))
    (inst := fun _ _ _ _ hu he => hu.exec he)
    (fault := fun _ hu => hu.congr (by simp))
    (res := fun _ c hu => hu.result c)
    (count := fun _ hu => hu.congr (by simp))
    (arg0 := fun _ _ hu => hu.congr (by simp))
    (arg1 := fun _ _ hu => hu.congr (by simp))
    (ring := fun _ _ _ _ _ hu _ => hu.congr (by simp [State.ringWrite]))
    (agent := fun _ a _ hu _ => hu.agentStep a) h hstep

end Sys2Proof.Machine
end

section
/-!
PROOFS. O44: the steps of the timer agents (43_backoff_timers.md R432, R441), and what weak fairness of the agents
gives (R437; 60_exceptions.md R511).
-/

namespace Sys2Proof.Machine

/-! ## The steps of the agents -/

theorem State.enabled_boTimer_iff (s : State) (c : OpClass) :
    s.enabled (.boTimer c) = true ↔ s.ready ∧ (s.bo.get c).running = true := by
  simp [State.enabled, State.running, State.ready]

theorem State.enabled_retry_iff (s : State) (c : OpClass) :
    s.enabled (.retry c) = true ↔ s.ready ∧ s.retryEvt.get c = true := by
  simp [State.enabled, State.running, State.ready]

theorem State.enabled_ackTimer_iff (s : State) : s.enabled .ackTimer = true ↔ s.ready ∧ s.ackWait = true := by
  simp [State.enabled, State.running, State.ready]

section
variable {s : State} {a : Agent} {rest : List Move} (hc : s.cfg.admitted = true) (hs : s.sched = .agent a :: rest)
include hc hs

/-- A scheduled agent that is enabled steps (00_scope.md R8). -/
theorem step_agent_enabled (ha : s.enabled a = true) : step s = .next (State.agentStep { s with sched := rest } a) :=
  (step_of_sched hc hs).trans (if_pos ha)

/-- One that is not is refused (log entry 20). -/
theorem step_agent_refused (ha : s.enabled a = false) : step s = .refused .agentNotEnabled :=
  (step_of_sched hc hs).trans (if_neg (Bool.eq_false_iff.mp ha))

end

/-! ## A rejected submission -/

/-- RES holds REJECTED for that outcome alone (30_encoding.md R182). -/
theorem eq_rejected_of_resWord {o : ResultCode} (h : resWord o false = 0x00000004) : o = .rejected := by
  revert h
  cases o <;> decide

/-- A submission that answers REJECTED awaits its retry (43_backoff_timers.md R430). -/
theorem SubmitOutcome.awaitsRetry {s : State} {c : OpClass} {o : ResultCode × State} (h : SubmitOutcome s c o)
    (hr : s.ready) (hres : (submitResult o).res = 0x00000004) : (submitResult o).awaitsRetry c := by
  have hrejected : o.1 = .rejected := eq_rejected_of_resWord hres
  obtain ⟨hok, -⟩ | ⟨-, -, hrun, hvalid⟩ | ⟨hblocked, -⟩ := h.answer
  · cases hrejected.symm.trans hok
  · exact ⟨⟨h.flags.1.trans hr.1, h.flags.2.trans hr.2⟩, hvalid, .inl hrun⟩
  · cases hrejected.symm.trans hblocked

/-- The checks before a submission answer other results than REJECTED (40_scheduler.md R233, R240, R245). -/
theorem submission_rejected_awaitsRetry {s t : State} {c : OpClass} {i : Instr} (hc : s.cfg.admitted = true)
    (hr : s.ready) (hi : submission c i) (h : exec i s = .next t) (hres : t.res = 0x00000004) : t.awaitsRetry c := by
  cases c with
  | rx =>
    obtain ⟨ch, rfl⟩ := hi
    rw [exec_submitRx hr] at h
    split_ifs at h <;> cases h
    case neg => exact (s.doSubmitRx_outcome ch hc).awaitsRetry hr hres
    all_goals simp at hres
  | tx =>
    obtain ⟨ch, ackReq, cca, rfl⟩ := hi
    rw [exec_submitTx hr] at h
    split_ifs at h <;> cases h
    case neg => exact (s.doSubmitTx_outcome ch _ _ _ hc).awaitsRetry hr hres
    all_goals simp at hres
  | noop =>
    obtain rfl : i = .submitNoop := hi
    rw [exec_submitNoop hr] at h
    split_ifs at h <;> cases h
    case neg => exact (s.doSubmitNoop_outcome hc).awaitsRetry hr hres
    all_goals simp at hres

/-! ## The retry of a run -/

/-- The step of an agent in a valid run. -/
theorem Run.valid_agent {r : Run} (hv : r.valid) {k : Nat} {a : Agent} (hm : r.move k = some (.agent a)) :
    r.state (k + 1) = State.agentStep { r.state k with sched := [] } a :=
  (step_agent (Run.valid_step hv hm)).2

section
variable {r : Run} {c : OpClass} {n m : Nat} (hv : r.valid)
include hv

/-- A class awaits its retry until it is retried or the host settles it (R437). -/
theorem Run.awaitsRetry_stays (hw : (r.state n).awaitsRetry c) (hretry : ∀ k, n ≤ k → ¬r.retries k c)
    (hsettle : ∀ k, n ≤ k → ¬r.settles k c) (k : Nat) (hk : n ≤ k) : (r.state k).awaitsRetry c :=
  Nat.le_induction hw
    (fun k hk hwait => (((Run.awaits_step hv k hwait).resolve_left (hretry k hk)).resolve_left (hsettle k hk)).1) k hk

/-- A class that awaits its retry and that the host leaves alone is retried: its backoff expires by the fairness of
BOTIMER, and the expiry is consumed by the fairness of RETRY (R437). -/
theorem Run.retries_or_settles (htimer : r.weaklyFair (.boTimer c)) (hretry : r.weaklyFair (.retry c))
    (hw : (r.state n).awaitsRetry c) (hquiet : ∀ k, m ≤ k → ¬r.rearms k c) :
    ∃ k, n ≤ k ∧ (r.retries k c ∨ r.settles k c) := by
  by_contra! hnone
  have hwait := Run.awaitsRetry_stays hv hw (fun k hk => (hnone k hk).1) (fun k hk => (hnone k hk).2)
  have hstep (k : Nat) (hk : max n m ≤ k) :=
    ((((Run.awaits_step hv k (hwait k (by omega))).resolve_left (hnone k (by omega)).1).resolve_left
      (hnone k (by omega)).2).2).resolve_left (hquiet k (by omega))
  have hpending (k : Nat) (hk : max n m ≤ k) : (r.state k).retryEvt.get c ≠ true := fun hevt => by
    have hstays := Nat.le_induction (P := fun j _ => (r.state j).retryEvt.get c = true) hevt
      (fun j hj hevt => (hstep j (by omega)).1 hevt)
    obtain ⟨j, hj, hmove⟩ := hretry k fun j hj =>
      ((r.state j).enabled_retry_iff c).mpr ⟨(hwait j (by omega)).1, hstays j hj⟩
    exact (hnone j (by omega)).1 ⟨hmove, (hwait j (by omega)).2.1⟩
  have hrun (k : Nat) (hk : max n m ≤ k) : ((r.state k).bo.get c).running = true :=
    (hwait k (by omega)).2.2.resolve_right (hpending k hk)
  obtain ⟨k, hk, hmove⟩ := htimer (max n m) fun k hk =>
    ((r.state k).enabled_boTimer_iff c).mpr ⟨(hwait k (by omega)).1, hrun k hk⟩
  obtain ⟨-, hne⟩ | hevt := (hstep k hk).2 (hrun k hk)
  · exact hne hmove
  · exact hpending (k + 1) (by omega) hevt

/-- What a retry of a class that is not busy does in a run (R436). -/
theorem Run.retries_clear {k : Nat} (hready : (r.state k).ready) (hret : r.retries k c)
    (hclear : (r.state k).retryClear c) :
    ((r.state k).drawAccept.1 = true ∧ (r.state (k + 1)).inflight.get c.slot = true) ∨
      ((r.state k).drawAccept.1 = false ∧ (r.state (k + 1)).awaitsRetry c) := by
  have hc : (r.state k).cfg.admitted = true := (step_cases (Run.valid_step hv hret.1)).1
  rw [Run.valid_agent hv hret.1, ← State.drawAccept_fst (s := r.state k) (t := { r.state k with sched := [] }) rfl]
  exact State.retryStep_clear (s := { r.state k with sched := [] }) hc hready hret.2 (by cases c <;> exact hclear)

/-- While no retry is accepted and the host settles nothing, the class awaits a retry (R436, R437). -/
theorem Run.awaitsRetry_until_inflight (hw : (r.state n).awaitsRetry c)
    (hclear : ∀ k, n ≤ k → r.retries k c → (r.state k).retryClear c) (hsettle : ∀ k, n ≤ k → ¬r.settles k c)
    (hin : ∀ k, n ≤ k → r.retries k c → (r.state (k + 1)).inflight.get c.slot ≠ true) (k : Nat) (hk : n ≤ k) :
    (r.state k).awaitsRetry c := by
  refine Nat.le_induction hw (fun k hk hwait => ?_) k hk
  obtain hret | hset | ⟨hnext, -⟩ := Run.awaits_step hv k hwait
  · obtain ⟨-, haccepted⟩ | ⟨-, hnext⟩ := Run.retries_clear hv hwait.1 hret (hclear k hk hret)
    · exact absurd haccepted (hin k hk hret)
    · exact hnext
  · exact absurd hset (hsettle k hk)
  · exact hnext

/-- A class that is not busy is in flight by a retry once the radio accepts (R437). -/
theorem Run.inflight_or_settles (htimer : r.weaklyFair (.boTimer c)) (hretry : r.weaklyFair (.retry c))
    (hw : (r.state n).awaitsRetry c) {q : Nat} (hquiet : ∀ k, q ≤ k → ¬r.rearms k c)
    (hclear : ∀ k, n ≤ k → r.retries k c → (r.state k).retryClear c)
    (haccept : ∀ k, m ≤ k → r.retries k c → (r.state k).drawAccept.1 = true) :
    (∃ k, n ≤ k ∧ r.retries k c ∧ (r.state (k + 1)).inflight.get c.slot = true) ∨ ∃ k, n ≤ k ∧ r.settles k c := by
  by_contra! hnone
  obtain ⟨hin, hsettle⟩ := hnone
  have hwait := Run.awaitsRetry_until_inflight hv hw hclear hsettle hin
  obtain ⟨k, hk, hret | hset⟩ :=
    Run.retries_or_settles hv htimer hretry (hwait (max n m) (le_max_left _ _)) hquiet
  · obtain ⟨-, haccepted⟩ | ⟨hrejected, -⟩ :=
      Run.retries_clear hv (hwait k (by omega)).1 hret (hclear k (by omega) hret)
    · exact hin k (by omega) hret haccepted
    · exact Bool.false_ne_true (hrejected.symm.trans (haccept k (by omega) hret))
  · exact hsettle k (by omega) hset

end

/-! ## The wait for an acknowledgment -/

/-- INIT has succeeded, and with the ring allocated no later INIT can fail (40_scheduler.md R230). -/
def State.Initialised (s : State) : Prop := s.ready ∧ s.ringAllocated = true

/-- The fields it reads. -/
@[simp] def State.initView (s : State) := (s.init, s.fatal, s.ringAllocated)

theorem State.Initialised.congr {s t : State} (h : s.Initialised) (e : t.initView = s.initView) : t.Initialised := by
  obtain ⟨einit, efatal, ering⟩ : t.init = s.init ∧ t.fatal = s.fatal ∧ t.ringAllocated = s.ringAllocated := by
    simpa using e
  exact ⟨⟨einit.trans h.1.1, efatal.trans h.1.2⟩, ering.trans h.2⟩

theorem State.initialise_ringAllocated (s : State) : s.initialise.ringAllocated = s.ringAllocated := by
  unfold State.initialise State.emitDisable
  dsimp only
  split_ifs <;> simp [State.initValues]

theorem State.Initialised.cmdInit {s : State} (h : s.Initialised) : (cmdInit s).Initialised := by
  obtain ⟨⟨hinit, hfatal⟩, hring⟩ := h
  rw [cmdInit_eq, if_neg (by simp [hfatal]), if_pos hring]
  split_ifs
  · exact ⟨⟨hinit, hfatal⟩, hring⟩
  · exact ⟨⟨by simp, by simpa using hfatal⟩, s.initialise_ringAllocated.trans hring⟩

theorem State.Initialised.exec {i : Instr} {s t : State} (h : s.Initialised) (he : exec i s = .next t) :
    t.Initialised := by
  cases hport : i.port with
  | evt => exact h.congr (by have hview := (exec_eventFrame hport he).1; simp_all)
  | cmd =>
    by_cases hinit : i = .init
    · subst hinit
      cases he
      exact h.cmdInit
    · exact h.congr (by have hview := (exec_commandFrame hport hinit he).1.1; simp_all)

theorem State.retryStep_initView (s : State) (c : OpClass) : (s.retryStep c).initView = s.initView := by
  have houtcome (u : State) (out : ResultCode) : (u.retryOutcome c out).initView = u.initView := by
    cases out <;> simp [State.retryOutcome, State.dropRetry]
  have hsubmit (u : State) (a : RetryArgs) : (u.retrySubmit c a).2.initView = u.initView := by
    cases c <;> simp only [State.retrySubmit] <;> split_ifs <;> simp
  rw [State.retryStep_eq]
  dsimp only
  split
  · rw [houtcome, hsubmit]
    rfl
  · rfl

theorem State.agentStep_initView (s : State) (a : Agent) : (s.agentStep a).initView = s.initView := by
  cases a with
  | parser => simp [State.agentStep]
  | boTimer c => simp [State.agentStep]
  | retry c => exact s.retryStep_initView c
  | ackTimer => simp [State.agentStep]

/-- No step undoes a successful INIT. -/
theorem State.Initialised.step {s t : State} (h : s.Initialised) (hstep : step s = .next t) : t.Initialised :=
  step_keeps (P := State.Initialised)
    (sched := fun _ _ hu => hu)
    (draws := fun _ _ hu => hu)
    (bus := fun _ _ hu => hu)
    (inst := fun _ _ _ _ hu he => hu.exec he)
    (fault := fun _ hu => hu.congr (by simp))
    (res := fun _ _ hu => hu)
    (count := fun _ hu => hu)
    (arg0 := fun _ _ hu => hu)
    (arg1 := fun _ _ hu => hu)
    (ring := fun _ _ _ _ _ hu _ => hu)
    (agent := fun u a _ hu _ => hu.congr (u.agentStep_initView a)) h hstep

theorem Run.initialised_stays {r : Run} (hv : r.valid) {n : Nat} (h : (r.state n).Initialised) (k : Nat) (hk : n ≤ k) :
    (r.state k).Initialised := by
  refine Nat.le_induction h (fun k hk hinit => ?_) k hk
  cases hm : r.move k with
  | none => exact (Run.valid_stay hv hm).symm ▸ hinit
  | some m => exact State.Initialised.step (s := { r.state k with sched := [m] }) hinit (Run.valid_step hv hm)

/-- A wait for an acknowledgment that nothing else ends, ACKTIMER ends by its fairness (R441, R511). -/
theorem Run.ackWait_ends {r : Run} (hv : r.valid) (hfair : r.weaklyFair .ackTimer) {n : Nat}
    (h : (r.state n).Initialised) : ∃ k, n ≤ k ∧ (r.state k).ackWait = false := by
  by_contra! hwait
  simp only [ne_eq, Bool.not_eq_false] at hwait
  obtain ⟨k, hk, hmove⟩ := hfair n fun k hk =>
    (r.state k).enabled_ackTimer_iff.mpr ⟨(Run.initialised_stays hv h k hk).1, hwait k hk⟩
  have hexpired : (r.state (k + 1)).ackWait = false := by
    rw [Run.valid_agent hv hmove]
    rfl
  exact Bool.false_ne_true (hexpired.symm.trans (hwait (k + 1) (by omega)))

/-- Settles O44: the steps are `step_agent_enabled`, a rejection is `submission_rejected_awaitsRetry`, the retry
follows by `Run.retries_or_settles` and `Run.inflight_or_settles`, and the wait ends by `Run.ackWait_ends`. -/
theorem timerSteps : Obligations.TimerSteps := by
  refine ⟨?_, fun s t c i hc hr hi h hres => submission_rejected_awaitsRetry hc hr hi h hres, ?_,
    fun r n hv hfair hr hring => Run.ackWait_ends hv hfair ⟨hr, hring⟩⟩
  · intro s rest hc u
    exact ⟨fun c hs hr hrun => step_agent_enabled hc hs ((s.enabled_boTimer_iff c).mpr ⟨hr, hrun⟩),
      fun hs hr hwait => step_agent_enabled hc hs (s.enabled_ackTimer_iff.mpr ⟨hr, hwait⟩),
      fun a hs => ⟨step_agent_enabled hc hs, step_agent_refused hc hs⟩,
      fun c => ⟨s.enabled_boTimer_iff c, s.enabled_retry_iff c⟩, s.enabled_ackTimer_iff⟩
  · intro r c n hv htimer hretry hw putOff
    by_cases hput : putOff
    · exact ⟨.inr hput, fun _ _ _ => .inr (.inr hput)⟩
    · obtain ⟨q, hquiet⟩ : ∃ q, ∀ k, q ≤ k → ¬r.rearms k c := by simpa [putOff] using hput
      refine ⟨.inl (Run.retries_or_settles hv htimer hretry hw hquiet), fun m hclear haccept => ?_⟩
      exact (Run.inflight_or_settles hv htimer hretry hw hquiet hclear haccept).imp_right .inl

end Sys2Proof.Machine
end

section
/-!
PROOFS. O21: the frame-filter configuration commands (44_filter_config.md R470 to R473).
-/

namespace Sys2Proof.Machine

/-- The extended address by value: ARG1 is its high word, ARG0 its low word (30_encoding.md R158). -/
theorem extOfArgs_eq_ofNat (low high : Word) :
    extOfArgs low high = BitVec.ofNat 64 (high.toNat * 2 ^ 32 + low.toNat) := by
  rw [extOfArgs, ← toNat_append_add, BitVec.ofNat_toNat, BitVec.setWidth_eq]

/-- Settles O21: each command obeys the common guard, and past it stores its operands (`cmdSetPan_ready`,
`cmdSetShort_ready`, `cmdSetExt_ready` with the address by value, `cmdSetFilterMode_ready`). -/
theorem filterCommands : Obligations.FilterCommands := by
  refine ⟨fun p => guards.1 (.setPan p) rfl rfl nofun, fun a => guards.1 (.setShort a) rfl rfl nofun,
    guards.1 .setExt rfl rfl nofun, fun a p e f => guards.1 (.setFilterMode a p e f) rfl rfl nofun,
    fun s hr => ⟨fun p => ?_, fun a => ?_, ?_, fun a p e f => ?_⟩⟩
  · exact congrArg Host.Outcome.next (cmdSetPan_ready hr p)
  · exact congrArg Host.Outcome.next (cmdSetShort_ready hr a)
  · rw [← extOfArgs_eq_ofNat]
    exact congrArg Host.Outcome.next (cmdSetExt_ready hr)
  · exact congrArg Host.Outcome.next (cmdSetFilterMode_ready hr a p e f)

end Sys2Proof.Machine
end

section
/-!
PROOFS. O9: the fatal state (60_exceptions.md R494). Every move but a CMD write of INIT leaves `fatal` as it is, so a
step that enters the fatal state is that write; the other clauses are the guards (O8), INIT (O10) and the history (O57).
-/

namespace Sys2Proof.Machine

/-! ## What leaves the fatal flag alone -/

/-- An instruction but INIT leaves the flag alone: it stands in the frame of the commands and in that of the events. -/
theorem exec_fatal {i : Instr} {s t : State} (hinit : i ≠ .init) (h : exec i s = .next t) : t.fatal = s.fatal := by
  cases hport : i.port with
  | cmd =>
    obtain ⟨⟨hview, -⟩, -⟩ := exec_commandFrame hport hinit h
    simp_all
  | evt =>
    obtain ⟨hview, -⟩ := exec_eventFrame hport h
    simp_all

theorem cmdWrite_fatal {w : Word} {s t : State} (hinit : decodeCmd w ≠ .ok .init) (h : cmdWrite w s = .next t) :
    t.fatal = s.fatal := by
  unfold cmdWrite at h
  split at h
  · rename_i i hi
    exact exec_fatal (fun e => hinit (e ▸ hi)) h
  · cases h
    unfold State.illegalCmd
    split_ifs <;> simp

/-- A register write reaches CMD at offset 0 alone (20_memory.md R105). -/
theorem writeReg_fatal {off : Nat} {v : Word} {s t : State} (hinit : off = 0x000 → decodeCmd v ≠ .ok .init)
    (h : writeReg off v s = .next t) : t.fatal = s.fatal := by
  unfold writeReg at h
  split_ifs at h with hcmd
  · exact cmdWrite_fatal (hinit hcmd) h
  all_goals cases h; rfl

theorem eventWord_fatal {w : Word} {s t : State} (h : eventWord w s = .next t) : t.fatal = s.fatal := by
  unfold eventWord at h
  split at h
  · rename_i i hi
    have hport := port_of_decodeEvt hi
    exact exec_fatal (fun e => by rw [e] at hport; cases hport) h
  · cases h
    exact State.badEventWord_keeps (P := fun u => u.fatal = s.fatal) rfl (by simp) (by simp)

theorem State.agentStep_fatal (s : State) (a : Agent) : (s.agentStep a).fatal = s.fatal := by
  have hview := s.agentStep_initView a
  simp_all

theorem State.idleStep_fatal (s : State) : s.idleStep.fatal = s.fatal := by
  obtain hwait | ⟨a, -, hagent⟩ := s.idleStep_cases
  · rw [hwait]
  · rw [hagent, State.agentStep_fatal]
    rfl

/-! ## What enters the fatal state -/

/-- A move that writes no INIT to CMD leaves the flag alone. -/
theorem runMove_fatal {m : Move} {s t : State} (hm : ∀ w, m = .regWrite 4 0x000 w → decodeCmd w ≠ .ok .init)
    (h : runMove m s = .next t) : t.fatal = s.fatal := by
  cases m with
  | regWrite width off v =>
    simp only [runMove, State.hostWrite] at h
    split_ifs at h with haccess
    exact writeReg_fatal (fun hoff => hm v (by rw [haccess.1, BitVec.eq_of_toNat_eq (y := 0x000) hoff])) h
  | regRead width off =>
    simp only [runMove, State.hostRead] at h
    split_ifs at h
    cases h
    rw [State.readReg_frame]
  | event w => exact eventWord_fatal h
  | ringWrite k bytes done =>
    simp only [runMove, State.radioWrite] at h
    split_ifs at h
    cases h
    rfl
  | agent a =>
    simp only [runMove, State.scheduledAgent] at h
    split_ifs at h
    cases h
    exact s.agentStep_fatal a

/-- INIT has one word (30_encoding.md R154). -/
theorem eq_one_of_decodeCmd_init {w : Word} (h : decodeCmd w = .ok .init) : w = 0x00000001 :=
  (List.singleton_inj.mp (encode_of_decodeCmd h)).symm

/-- A step that changes the flag is a CMD write of INIT. -/
theorem sched_init_of_fatal_ne {s t : State} (h : step s = .next t) (hne : t.fatal ≠ s.fatal) :
    ∃ rest, s.sched = .regWrite 4 0x000 0x00000001 :: rest := by
  obtain ⟨hc, ⟨-, rfl⟩ | ⟨m, rest, hs, -⟩⟩ := step_cases h
  · exact absurd s.idleStep_fatal hne
  · rw [step_of_sched hc hs] at h
    by_contra hother
    refine hne (runMove_fatal (s := { s with sched := rest }) (fun w hm hd => hother ⟨rest, ?_⟩) h)
    rw [hs, hm, eq_one_of_decodeCmd_init hd]

/-! ## In the fatal state -/

/-- Every command answers FATAL and changes nothing else: INIT by its first check (40_scheduler.md R230), the others by
the common guard (00_scope.md R12). -/
theorem exec_cmd_of_fatal {s : State} (hi : s.init = true) (hf : s.fatal = true) {i : Instr} (hport : i.port = .cmd)
    (hexp : i.expansion = [i]) : exec i s = .next { s with res := 0x00000008 } := by
  by_cases hinit : i = .init
  · obtain ⟨hrefused, -⟩ := initCommand s
    exact hinit ▸ hrefused hf
  · obtain ⟨-, hguard⟩ := guards.1 i hport hexp hinit s
    exact hguard hi hf

/-- Settles O9: INIT's failure is `initCommand`'s, entry is `sched_init_of_fatal_ne`, permanence is `step_extends`, and
in the fatal state the answers are `exec_cmd_of_fatal` and the guards'. -/
theorem fatalState : Obligations.FatalState := by
  obtain ⟨-, hevents, hagents⟩ := guards
  refine ⟨fun s hf hidle hring hans => ?_, fun s t h hf ht => sched_init_of_fatal_ne h (by simp [hf, ht]),
    fun s t h => (step_extends h).fatal, fun s i hi hf hport hexp => exec_cmd_of_fatal hi hf hport hexp,
    fun s i hi hf hport => ?_, fun s a hf => ?_, fun s hf hfaults => by simp [State.final, hf, hfaults]⟩
  · obtain ⟨-, -, hfails, -⟩ := initCommand s
    exact ⟨_, hfails hf hidle hring hans, rfl⟩
  · obtain ⟨-, hguard⟩ := hevents i hport s
    exact hguard hi hf
  · by_contra henabled
    obtain ⟨-, hready⟩ := hagents s a (by simpa using henabled)
    exact Bool.false_ne_true (hready.symm.trans hf)

end Sys2Proof.Machine
end
